-- ==== Sys2Proof/Word.lean ====
section
/-! DEFINITION. The machine's words (spec 00_scope.md R9, R12): their widths and nothing else. -/

namespace Sys2Proof

/-- A byte of memory (R9). -/
abbrev Byte := BitVec 8

/-- A 32-bit pattern: a register, a slot, an instruction or an address (R9). -/
abbrev Word := BitVec 32

/-- A 64-bit pattern: a staged operand, a result record's value, or a double (R27, R36). -/
abbrev DWord := BitVec 64

/-- A 5-bit register field: the index of a general register or of a floating-point slot (R20, R26, R91). -/
abbrev Reg := BitVec 5

end Sys2Proof
end

