-- ==== Sys2Proof/Syntax.lean ====
section
/-! DEFINITION. The instructions: one constructor for each row of spec/opcode_table.json (30_encoding.md R100 to R102).
Fields an instruction ignores (R105) are no part of it. Operand order is the assembler's (R108): destination first; a
store's `rd` is the register whose value is stored. -/

namespace Sys2Proof

/-- One instruction of the opcode table. -/
inductive Instr where
  /-- `NOP`, class Nop (R103). -/
  | nop
  /-- `ADD`, class Register-ALU (R131). -/
  | add (rd rs1 rs2 : Reg)
  /-- `ADDU`, class Register-ALU (R132). -/
  | addu (rd rs1 rs2 : Reg)
  /-- `SUB`, class Register-ALU (R133). -/
  | sub (rd rs1 rs2 : Reg)
  /-- `SUBU`, class Register-ALU (R134). -/
  | subu (rd rs1 rs2 : Reg)
  /-- `AND`, class Register-ALU (R135). -/
  | and (rd rs1 rs2 : Reg)
  /-- `OR`, class Register-ALU (R136). -/
  | or (rd rs1 rs2 : Reg)
  /-- `XOR`, class Register-ALU (R137). -/
  | xor (rd rs1 rs2 : Reg)
  /-- `SLL`, class Register-ALU (R138). -/
  | sll (rd rs1 rs2 : Reg)
  /-- `SRL`, class Register-ALU (R139). -/
  | srl (rd rs1 rs2 : Reg)
  /-- `SRA`, class Register-ALU (R140). -/
  | sra (rd rs1 rs2 : Reg)
  /-- `SEQ`, class Register-ALU (R141). -/
  | seq (rd rs1 rs2 : Reg)
  /-- `SNE`, class Register-ALU (R142). -/
  | sne (rd rs1 rs2 : Reg)
  /-- `SLT`, class Register-ALU (R143). -/
  | slt (rd rs1 rs2 : Reg)
  /-- `SGT`, class Register-ALU (R144). -/
  | sgt (rd rs1 rs2 : Reg)
  /-- `SLE`, class Register-ALU (R145). -/
  | sle (rd rs1 rs2 : Reg)
  /-- `SGE`, class Register-ALU (R146). -/
  | sge (rd rs1 rs2 : Reg)
  /-- `ADDI`, class Immediate-ALU (R150). -/
  | addi (rd rs1 : Reg) (imm : BitVec 16)
  /-- `ADDUI`, class Immediate-ALU (R151). -/
  | addui (rd rs1 : Reg) (imm : BitVec 16)
  /-- `SUBI`, class Immediate-ALU (R152). -/
  | subi (rd rs1 : Reg) (imm : BitVec 16)
  /-- `SUBUI`, class Immediate-ALU (R153). -/
  | subui (rd rs1 : Reg) (imm : BitVec 16)
  /-- `ANDI`, class Immediate-ALU (R154). -/
  | andi (rd rs1 : Reg) (imm : BitVec 16)
  /-- `ORI`, class Immediate-ALU (R155). -/
  | ori (rd rs1 : Reg) (imm : BitVec 16)
  /-- `XORI`, class Immediate-ALU (R156). -/
  | xori (rd rs1 : Reg) (imm : BitVec 16)
  /-- `LHI`, class Immediate-ALU (R157). -/
  | lhi (rd : Reg) (imm : BitVec 16)
  /-- `SLLI`, class Immediate-ALU (R158). -/
  | slli (rd rs1 : Reg) (imm : BitVec 16)
  /-- `SRLI`, class Immediate-ALU (R159). -/
  | srli (rd rs1 : Reg) (imm : BitVec 16)
  /-- `SRAI`, class Immediate-ALU (R160). -/
  | srai (rd rs1 : Reg) (imm : BitVec 16)
  /-- `SEQI`, class Immediate-ALU (R161). -/
  | seqi (rd rs1 : Reg) (imm : BitVec 16)
  /-- `SNEI`, class Immediate-ALU (R162). -/
  | snei (rd rs1 : Reg) (imm : BitVec 16)
  /-- `SLTI`, class Immediate-ALU (R163). -/
  | slti (rd rs1 : Reg) (imm : BitVec 16)
  /-- `SGTI`, class Immediate-ALU (R164). -/
  | sgti (rd rs1 : Reg) (imm : BitVec 16)
  /-- `SLEI`, class Immediate-ALU (R165). -/
  | slei (rd rs1 : Reg) (imm : BitVec 16)
  /-- `SGEI`, class Immediate-ALU (R166). -/
  | sgei (rd rs1 : Reg) (imm : BitVec 16)
  /-- `ADDF`, class Register-FPU (R190). -/
  | addf (rd rs1 rs2 : Reg)
  /-- `SUBF`, class Register-FPU (R191). -/
  | subf (rd rs1 rs2 : Reg)
  /-- `MULTF`, class Register-FPU (R192). -/
  | multf (rd rs1 rs2 : Reg)
  /-- `DIVF`, class Register-FPU (R193). -/
  | divf (rd rs1 rs2 : Reg)
  /-- `ADDD`, class Register-FPU (R194). -/
  | addd (rd rs1 rs2 : Reg)
  /-- `SUBD`, class Register-FPU (R195). -/
  | subd (rd rs1 rs2 : Reg)
  /-- `MULTD`, class Register-FPU (R196). -/
  | multd (rd rs1 rs2 : Reg)
  /-- `DIVD`, class Register-FPU (R197). -/
  | divd (rd rs1 rs2 : Reg)
  /-- `MULT`, class Register-FPU (R201). -/
  | mult (rd rs1 rs2 : Reg)
  /-- `DIV`, class Register-FPU (R202). -/
  | div (rd rs1 rs2 : Reg)
  /-- `EQF`, class Register-FPU (R205). -/
  | eqf (rs1 rs2 : Reg)
  /-- `NEF`, class Register-FPU (R206). -/
  | nef (rs1 rs2 : Reg)
  /-- `LTF`, class Register-FPU (R207). -/
  | ltf (rs1 rs2 : Reg)
  /-- `GTF`, class Register-FPU (R208). -/
  | gtf (rs1 rs2 : Reg)
  /-- `LEF`, class Register-FPU (R209). -/
  | lef (rs1 rs2 : Reg)
  /-- `GEF`, class Register-FPU (R210). -/
  | gef (rs1 rs2 : Reg)
  /-- `EQD`, class Register-FPU (R211). -/
  | eqd (rs1 rs2 : Reg)
  /-- `NED`, class Register-FPU (R212). -/
  | ned (rs1 rs2 : Reg)
  /-- `LTD`, class Register-FPU (R213). -/
  | ltd (rs1 rs2 : Reg)
  /-- `GTD`, class Register-FPU (R214). -/
  | gtd (rs1 rs2 : Reg)
  /-- `LED`, class Register-FPU (R215). -/
  | led (rs1 rs2 : Reg)
  /-- `GED`, class Register-FPU (R216). -/
  | ged (rs1 rs2 : Reg)
  /-- `LB`, class Load (R225). -/
  | lb (rd rs1 : Reg) (imm : BitVec 16)
  /-- `LBU`, class Load (R226). -/
  | lbu (rd rs1 : Reg) (imm : BitVec 16)
  /-- `LH`, class Load (R227). -/
  | lh (rd rs1 : Reg) (imm : BitVec 16)
  /-- `LHU`, class Load (R228). -/
  | lhu (rd rs1 : Reg) (imm : BitVec 16)
  /-- `LW`, class Load (R229). -/
  | lw (rd rs1 : Reg) (imm : BitVec 16)
  /-- `LF`, class Load (R230). -/
  | lf (rd rs1 : Reg) (imm : BitVec 16)
  /-- `LD`, class Load (R231). -/
  | ld (rd rs1 : Reg) (imm : BitVec 16)
  /-- `SB`, class Store (R235). -/
  | sb (rd rs1 : Reg) (imm : BitVec 16)
  /-- `SH`, class Store (R236). -/
  | sh (rd rs1 : Reg) (imm : BitVec 16)
  /-- `SW`, class Store (R237). -/
  | sw (rd rs1 : Reg) (imm : BitVec 16)
  /-- `SF`, class Store (R238). -/
  | sf (rd rs1 : Reg) (imm : BitVec 16)
  /-- `SD`, class Store (R239). -/
  | sd (rd rs1 : Reg) (imm : BitVec 16)
  /-- `BEQZ`, class Branch (R252). -/
  | beqz (rs1 : Reg) (imm : BitVec 16)
  /-- `BNEZ`, class Branch (R253). -/
  | bnez (rs1 : Reg) (imm : BitVec 16)
  /-- `BFPT`, class Branch (R254). -/
  | bfpt (imm : BitVec 16)
  /-- `BFPF`, class Branch (R255). -/
  | bfpf (imm : BitVec 16)
  /-- `J`, class Jump (R256). -/
  | j (offset : BitVec 26)
  /-- `JAL`, class Jump (R257). -/
  | jal (offset : BitVec 26)
  /-- `TRAP`, class Trap (R270). -/
  | trap
  /-- `RFE`, class Unimplemented (R273). -/
  | rfe
  /-- `JR`, class Unimplemented (R274). -/
  | jr
  /-- `JALR`, class Unimplemented (R275). -/
  | jalr
  /-- `MOVI2S`, class Unimplemented (R276). -/
  | movi2s
  /-- `MOVS2I`, class Unimplemented (R276). -/
  | movs2i
  /-- `SEQU`, class Unimplemented (R277). -/
  | sequ
  /-- `SNEU`, class Unimplemented (R277). -/
  | sneu
  /-- `SLTU`, class Unimplemented (R277). -/
  | sltu
  /-- `SGTU`, class Unimplemented (R277). -/
  | sgtu
  /-- `SLEU`, class Unimplemented (R277). -/
  | sleu
  /-- `SGEU`, class Unimplemented (R277). -/
  | sgeu
  /-- `SEQUI`, class Unimplemented (R277). -/
  | sequi
  /-- `SNEUI`, class Unimplemented (R277). -/
  | sneui
  /-- `SLTUI`, class Unimplemented (R277). -/
  | sltui
  /-- `SGTUI`, class Unimplemented (R277). -/
  | sgtui
  /-- `SLEUI`, class Unimplemented (R277). -/
  | sleui
  /-- `SGEUI`, class Unimplemented (R277). -/
  | sgeui
  /-- `MOVF`, class Unimplemented (R278). -/
  | movf
  /-- `MOVD`, class Unimplemented (R278). -/
  | movd
  /-- `MOVFP2I`, class Unimplemented (R278). -/
  | movfp2i
  /-- `MOVI2FP`, class Unimplemented (R278). -/
  | movi2fp
  /-- `CVTF2D`, class Unimplemented (R279). -/
  | cvtf2d
  /-- `CVTF2I`, class Unimplemented (R279). -/
  | cvtf2i
  /-- `CVTD2F`, class Unimplemented (R279). -/
  | cvtd2f
  /-- `CVTD2I`, class Unimplemented (R279). -/
  | cvtd2i
  /-- `CVTI2F`, class Unimplemented (R279). -/
  | cvti2f
  /-- `CVTI2D`, class Unimplemented (R279). -/
  | cvti2d
  /-- `MULTU`, class Unimplemented (R280). -/
  | multu
  /-- `DIVU`, class Unimplemented (R280). -/
  | divu
deriving DecidableEq, Repr

/-- The classes decoding assigns (R98). -/
inductive InstrClass where
  | nop | registerAlu | registerFpu | immediateAlu | branch | jump | load | store | trap | unimplemented
deriving DecidableEq, Repr

end Sys2Proof
end

