-- ==== Sys2Proof/WellFormed.lean ====
section
/-! DEFINITION. Which instructions are well formed: every one but a double-precision form that names slot 31, which has
no next slot (10_state.md R28; 46_pipeline_engine.md R341; 93_implementation_defined.md U6). -/

namespace Sys2Proof

/-- A slot index that can be the low half of a pair: 0 to 30 (R27, R28). -/
def pairOk (i : Reg) : Bool := i != 31

/-- R28: no double-precision source or destination is slot 31. -/
def Instr.wellFormed : Instr → Bool
  | .nop => true
  | .add _ _ _ => true
  | .addu _ _ _ => true
  | .sub _ _ _ => true
  | .subu _ _ _ => true
  | .and _ _ _ => true
  | .or _ _ _ => true
  | .xor _ _ _ => true
  | .sll _ _ _ => true
  | .srl _ _ _ => true
  | .sra _ _ _ => true
  | .seq _ _ _ => true
  | .sne _ _ _ => true
  | .slt _ _ _ => true
  | .sgt _ _ _ => true
  | .sle _ _ _ => true
  | .sge _ _ _ => true
  | .addi _ _ _ => true
  | .addui _ _ _ => true
  | .subi _ _ _ => true
  | .subui _ _ _ => true
  | .andi _ _ _ => true
  | .ori _ _ _ => true
  | .xori _ _ _ => true
  | .lhi _ _ => true
  | .slli _ _ _ => true
  | .srli _ _ _ => true
  | .srai _ _ _ => true
  | .seqi _ _ _ => true
  | .snei _ _ _ => true
  | .slti _ _ _ => true
  | .sgti _ _ _ => true
  | .slei _ _ _ => true
  | .sgei _ _ _ => true
  | .addf _ _ _ => true
  | .subf _ _ _ => true
  | .multf _ _ _ => true
  | .divf _ _ _ => true
  | .addd rd rs1 rs2 => pairOk rd && pairOk rs1 && pairOk rs2
  | .subd rd rs1 rs2 => pairOk rd && pairOk rs1 && pairOk rs2
  | .multd rd rs1 rs2 => pairOk rd && pairOk rs1 && pairOk rs2
  | .divd rd rs1 rs2 => pairOk rd && pairOk rs1 && pairOk rs2
  | .mult _ _ _ => true
  | .div _ _ _ => true
  | .eqf _ _ => true
  | .nef _ _ => true
  | .ltf _ _ => true
  | .gtf _ _ => true
  | .lef _ _ => true
  | .gef _ _ => true
  | .eqd rs1 rs2 => pairOk rs1 && pairOk rs2
  | .ned rs1 rs2 => pairOk rs1 && pairOk rs2
  | .ltd rs1 rs2 => pairOk rs1 && pairOk rs2
  | .gtd rs1 rs2 => pairOk rs1 && pairOk rs2
  | .led rs1 rs2 => pairOk rs1 && pairOk rs2
  | .ged rs1 rs2 => pairOk rs1 && pairOk rs2
  | .lb _ _ _ => true
  | .lbu _ _ _ => true
  | .lh _ _ _ => true
  | .lhu _ _ _ => true
  | .lw _ _ _ => true
  | .lf _ _ _ => true
  | .ld rd _ _ => pairOk rd
  | .sb _ _ _ => true
  | .sh _ _ _ => true
  | .sw _ _ _ => true
  | .sf _ _ _ => true
  | .sd rd _ _ => pairOk rd
  | .beqz _ _ => true
  | .bnez _ _ => true
  | .bfpt _ => true
  | .bfpf _ => true
  | .j _ => true
  | .jal _ => true
  | .trap => true
  | .rfe => true
  | .jr => true
  | .jalr => true
  | .movi2s => true
  | .movs2i => true
  | .sequ => true
  | .sneu => true
  | .sltu => true
  | .sgtu => true
  | .sleu => true
  | .sgeu => true
  | .sequi => true
  | .sneui => true
  | .sltui => true
  | .sgtui => true
  | .sleui => true
  | .sgeui => true
  | .movf => true
  | .movd => true
  | .movfp2i => true
  | .movi2fp => true
  | .cvtf2d => true
  | .cvtf2i => true
  | .cvtd2f => true
  | .cvtd2i => true
  | .cvti2f => true
  | .cvti2d => true
  | .multu => true
  | .divu => true

end Sys2Proof
end

