-- ==== Sys2Proof/Decode.lean ====
section
/-! DEFINITION. The codec (30_encoding.md): field extraction, the decoder, total on any bytes (R97), and the encoder, its
inverse (R99). The opcode and function numbers are the parameter `OPC` as the spec fills it (R100 to R102, log 11);
they stand in `decodeFunct0`, `decodeFunct1`, `decodeOpcode` and `encode` only. -/

namespace Sys2Proof

/-! ## Fields (R91 to R93) -/

/-- `opcode`, bits 31:26. -/
def fieldOpcode (w : Word) : BitVec 6 := w.extractLsb' 26 6
/-- `rs1`, bits 25:21. -/
def fieldRs1 (w : Word) : Reg := w.extractLsb' 21 5
/-- `rs2` of the Register format, bits 20:16. -/
def fieldRs2 (w : Word) : Reg := w.extractLsb' 16 5
/-- `rd` of the Register format, bits 15:11. -/
def fieldRdR (w : Word) : Reg := w.extractLsb' 11 5
/-- `shamt`, bits 10:6: no instruction reads it (R105). -/
def fieldShamt (w : Word) : BitVec 5 := w.extractLsb' 6 5
/-- `funct`, bits 5:0. -/
def fieldFunct (w : Word) : BitVec 6 := w.extractLsb' 0 6
/-- `rd` of the Immediate format, bits 20:16. -/
def fieldRdI (w : Word) : Reg := w.extractLsb' 16 5
/-- `imm`, bits 15:0. -/
def fieldImm (w : Word) : BitVec 16 := w.extractLsb' 0 16
/-- `offset` of the Jump format, bits 25:0. -/
def fieldOffset (w : Word) : BitVec 26 := w.extractLsb' 0 26

/-! ## Decoding -/

/-- The function codes under opcode 0 (R101); `none`: unassigned (R104). -/
def decodeFunct0 (w : Word) : Option Instr :=
  match (fieldFunct w).toNat with
  | 0x00 => some .nop
  | 0x04 => some (.sll (fieldRdR w) (fieldRs1 w) (fieldRs2 w))
  | 0x06 => some (.srl (fieldRdR w) (fieldRs1 w) (fieldRs2 w))
  | 0x07 => some (.sra (fieldRdR w) (fieldRs1 w) (fieldRs2 w))
  | 0x10 => some .sequ
  | 0x11 => some .sneu
  | 0x12 => some .sltu
  | 0x13 => some .sgtu
  | 0x14 => some .sleu
  | 0x15 => some .sgeu
  | 0x20 => some (.add (fieldRdR w) (fieldRs1 w) (fieldRs2 w))
  | 0x21 => some (.addu (fieldRdR w) (fieldRs1 w) (fieldRs2 w))
  | 0x22 => some (.sub (fieldRdR w) (fieldRs1 w) (fieldRs2 w))
  | 0x23 => some (.subu (fieldRdR w) (fieldRs1 w) (fieldRs2 w))
  | 0x24 => some (.and (fieldRdR w) (fieldRs1 w) (fieldRs2 w))
  | 0x25 => some (.or (fieldRdR w) (fieldRs1 w) (fieldRs2 w))
  | 0x26 => some (.xor (fieldRdR w) (fieldRs1 w) (fieldRs2 w))
  | 0x28 => some (.seq (fieldRdR w) (fieldRs1 w) (fieldRs2 w))
  | 0x29 => some (.sne (fieldRdR w) (fieldRs1 w) (fieldRs2 w))
  | 0x2A => some (.slt (fieldRdR w) (fieldRs1 w) (fieldRs2 w))
  | 0x2B => some (.sgt (fieldRdR w) (fieldRs1 w) (fieldRs2 w))
  | 0x2C => some (.sle (fieldRdR w) (fieldRs1 w) (fieldRs2 w))
  | 0x2D => some (.sge (fieldRdR w) (fieldRs1 w) (fieldRs2 w))
  | 0x30 => some .movi2s
  | 0x31 => some .movs2i
  | 0x32 => some .movf
  | 0x33 => some .movd
  | 0x34 => some .movfp2i
  | 0x35 => some .movi2fp
  | _ => none

/-- The function codes under opcode 1 (R102); `none`: unassigned (R104). -/
def decodeFunct1 (w : Word) : Option Instr :=
  match (fieldFunct w).toNat with
  | 0x00 => some (.addf (fieldRdR w) (fieldRs1 w) (fieldRs2 w))
  | 0x01 => some (.subf (fieldRdR w) (fieldRs1 w) (fieldRs2 w))
  | 0x02 => some (.multf (fieldRdR w) (fieldRs1 w) (fieldRs2 w))
  | 0x03 => some (.divf (fieldRdR w) (fieldRs1 w) (fieldRs2 w))
  | 0x04 => some (.addd (fieldRdR w) (fieldRs1 w) (fieldRs2 w))
  | 0x05 => some (.subd (fieldRdR w) (fieldRs1 w) (fieldRs2 w))
  | 0x06 => some (.multd (fieldRdR w) (fieldRs1 w) (fieldRs2 w))
  | 0x07 => some (.divd (fieldRdR w) (fieldRs1 w) (fieldRs2 w))
  | 0x08 => some .cvtf2d
  | 0x09 => some .cvtf2i
  | 0x0A => some .cvtd2f
  | 0x0B => some .cvtd2i
  | 0x0C => some .cvti2f
  | 0x0D => some .cvti2d
  | 0x0E => some (.mult (fieldRdR w) (fieldRs1 w) (fieldRs2 w))
  | 0x0F => some (.div (fieldRdR w) (fieldRs1 w) (fieldRs2 w))
  | 0x10 => some (.eqf (fieldRs1 w) (fieldRs2 w))
  | 0x11 => some (.nef (fieldRs1 w) (fieldRs2 w))
  | 0x12 => some (.ltf (fieldRs1 w) (fieldRs2 w))
  | 0x13 => some (.gtf (fieldRs1 w) (fieldRs2 w))
  | 0x14 => some (.lef (fieldRs1 w) (fieldRs2 w))
  | 0x15 => some (.gef (fieldRs1 w) (fieldRs2 w))
  | 0x16 => some .multu
  | 0x17 => some .divu
  | 0x18 => some (.eqd (fieldRs1 w) (fieldRs2 w))
  | 0x19 => some (.ned (fieldRs1 w) (fieldRs2 w))
  | 0x1A => some (.ltd (fieldRs1 w) (fieldRs2 w))
  | 0x1B => some (.gtd (fieldRs1 w) (fieldRs2 w))
  | 0x1C => some (.led (fieldRs1 w) (fieldRs2 w))
  | 0x1D => some (.ged (fieldRs1 w) (fieldRs2 w))
  | _ => none

/-- The primary opcodes (R100); opcodes 0 and 1 go on to their function codes (R94). -/
def decodeOpcode (w : Word) : Option Instr :=
  match (fieldOpcode w).toNat with
  | 0x00 => decodeFunct0 w
  | 0x01 => decodeFunct1 w
  | 0x02 => some (.j (fieldOffset w))
  | 0x03 => some (.jal (fieldOffset w))
  | 0x04 => some (.beqz (fieldRs1 w) (fieldImm w))
  | 0x05 => some (.bnez (fieldRs1 w) (fieldImm w))
  | 0x06 => some (.bfpt (fieldImm w))
  | 0x07 => some (.bfpf (fieldImm w))
  | 0x08 => some (.addi (fieldRdI w) (fieldRs1 w) (fieldImm w))
  | 0x09 => some (.addui (fieldRdI w) (fieldRs1 w) (fieldImm w))
  | 0x0A => some (.subi (fieldRdI w) (fieldRs1 w) (fieldImm w))
  | 0x0B => some (.subui (fieldRdI w) (fieldRs1 w) (fieldImm w))
  | 0x0C => some (.andi (fieldRdI w) (fieldRs1 w) (fieldImm w))
  | 0x0D => some (.ori (fieldRdI w) (fieldRs1 w) (fieldImm w))
  | 0x0E => some (.xori (fieldRdI w) (fieldRs1 w) (fieldImm w))
  | 0x0F => some (.lhi (fieldRdI w) (fieldImm w))
  | 0x10 => some .rfe
  | 0x11 => some .trap
  | 0x12 => some .jr
  | 0x13 => some .jalr
  | 0x14 => some (.slli (fieldRdI w) (fieldRs1 w) (fieldImm w))
  | 0x16 => some (.srli (fieldRdI w) (fieldRs1 w) (fieldImm w))
  | 0x17 => some (.srai (fieldRdI w) (fieldRs1 w) (fieldImm w))
  | 0x18 => some (.seqi (fieldRdI w) (fieldRs1 w) (fieldImm w))
  | 0x19 => some (.snei (fieldRdI w) (fieldRs1 w) (fieldImm w))
  | 0x1A => some (.slti (fieldRdI w) (fieldRs1 w) (fieldImm w))
  | 0x1B => some (.sgti (fieldRdI w) (fieldRs1 w) (fieldImm w))
  | 0x1C => some (.slei (fieldRdI w) (fieldRs1 w) (fieldImm w))
  | 0x1D => some (.sgei (fieldRdI w) (fieldRs1 w) (fieldImm w))
  | 0x20 => some (.lb (fieldRdI w) (fieldRs1 w) (fieldImm w))
  | 0x21 => some (.lh (fieldRdI w) (fieldRs1 w) (fieldImm w))
  | 0x23 => some (.lw (fieldRdI w) (fieldRs1 w) (fieldImm w))
  | 0x24 => some (.lbu (fieldRdI w) (fieldRs1 w) (fieldImm w))
  | 0x25 => some (.lhu (fieldRdI w) (fieldRs1 w) (fieldImm w))
  | 0x26 => some (.lf (fieldRdI w) (fieldRs1 w) (fieldImm w))
  | 0x27 => some (.ld (fieldRdI w) (fieldRs1 w) (fieldImm w))
  | 0x28 => some (.sb (fieldRdI w) (fieldRs1 w) (fieldImm w))
  | 0x29 => some (.sh (fieldRdI w) (fieldRs1 w) (fieldImm w))
  | 0x2B => some (.sw (fieldRdI w) (fieldRs1 w) (fieldImm w))
  | 0x2E => some (.sf (fieldRdI w) (fieldRs1 w) (fieldImm w))
  | 0x2F => some (.sd (fieldRdI w) (fieldRs1 w) (fieldImm w))
  | 0x30 => some .sequi
  | 0x31 => some .sneui
  | 0x32 => some .sltui
  | 0x33 => some .sgtui
  | 0x34 => some .sleui
  | 0x35 => some .sgeui
  | _ => none

/-- The instruction of a word, `none` where its opcode or function code is unassigned (R97, R104). -/
def decodeWord (w : Word) : Option Instr := decodeOpcode w

/-- What the decoder makes of bytes. -/
inductive Decoded where
  /-- An instruction of the table. -/
  | instr (i : Instr)
  /-- Four bytes whose word is no row of the table: class Unimplemented, it runs as a no-op (R104, log 10). -/
  | unassigned (w : Word)
  /-- Fewer than four bytes: no instruction (R90). -/
  | truncated
deriving DecidableEq, Repr

/-- The word in four bytes, the lowest address in bits 7:0 (R61, R90). -/
def wordOfBytes (b0 b1 b2 b3 : Byte) : Word := b3 ++ b2 ++ b1 ++ b0

/-- The bytes of a word, lowest address first (R61). -/
def bytesOfWord (w : Word) : List Byte :=
  [w.extractLsb' 0 8, w.extractLsb' 8 8, w.extractLsb' 16 8, w.extractLsb' 24 8]

/-- The decoder, total on any bytes: it reads the first four (R90, R97). -/
def decode : List Byte → Decoded
  | b0 :: b1 :: b2 :: b3 :: _ =>
    match decodeWord (wordOfBytes b0 b1 b2 b3) with
    | some i => .instr i
    | none => .unassigned (wordOfBytes b0 b1 b2 b3)
  | _ => .truncated

/-- The bytes of a table row's bits as the hardware stores them: byte `k` is bits `8k+7..8k`, and bits at or above
`nbits` are 0. -/
def tableBytes (nbits w : Nat) : List Byte :=
  (List.range 4).map fun k => BitVec.ofNat 8 ((w % 2 ^ nbits) / 2 ^ (8 * k))

/-- The instruction the decoder reads from an instruction whose bits are `w`. -/
def decodeTableWord (nbits w : Nat) : Option Instr :=
  match decode (tableBytes nbits w) with
  | .instr i => some i
  | _ => none

/-! ## Classes (R98) -/

/-- The class of an instruction of the table. -/
def Instr.instrClass : Instr → InstrClass
  | .nop => .nop
  | .add _ _ _ => .registerAlu
  | .addu _ _ _ => .registerAlu
  | .sub _ _ _ => .registerAlu
  | .subu _ _ _ => .registerAlu
  | .and _ _ _ => .registerAlu
  | .or _ _ _ => .registerAlu
  | .xor _ _ _ => .registerAlu
  | .sll _ _ _ => .registerAlu
  | .srl _ _ _ => .registerAlu
  | .sra _ _ _ => .registerAlu
  | .seq _ _ _ => .registerAlu
  | .sne _ _ _ => .registerAlu
  | .slt _ _ _ => .registerAlu
  | .sgt _ _ _ => .registerAlu
  | .sle _ _ _ => .registerAlu
  | .sge _ _ _ => .registerAlu
  | .addi _ _ _ => .immediateAlu
  | .addui _ _ _ => .immediateAlu
  | .subi _ _ _ => .immediateAlu
  | .subui _ _ _ => .immediateAlu
  | .andi _ _ _ => .immediateAlu
  | .ori _ _ _ => .immediateAlu
  | .xori _ _ _ => .immediateAlu
  | .lhi _ _ => .immediateAlu
  | .slli _ _ _ => .immediateAlu
  | .srli _ _ _ => .immediateAlu
  | .srai _ _ _ => .immediateAlu
  | .seqi _ _ _ => .immediateAlu
  | .snei _ _ _ => .immediateAlu
  | .slti _ _ _ => .immediateAlu
  | .sgti _ _ _ => .immediateAlu
  | .slei _ _ _ => .immediateAlu
  | .sgei _ _ _ => .immediateAlu
  | .addf _ _ _ => .registerFpu
  | .subf _ _ _ => .registerFpu
  | .multf _ _ _ => .registerFpu
  | .divf _ _ _ => .registerFpu
  | .addd _ _ _ => .registerFpu
  | .subd _ _ _ => .registerFpu
  | .multd _ _ _ => .registerFpu
  | .divd _ _ _ => .registerFpu
  | .mult _ _ _ => .registerFpu
  | .div _ _ _ => .registerFpu
  | .eqf _ _ => .registerFpu
  | .nef _ _ => .registerFpu
  | .ltf _ _ => .registerFpu
  | .gtf _ _ => .registerFpu
  | .lef _ _ => .registerFpu
  | .gef _ _ => .registerFpu
  | .eqd _ _ => .registerFpu
  | .ned _ _ => .registerFpu
  | .ltd _ _ => .registerFpu
  | .gtd _ _ => .registerFpu
  | .led _ _ => .registerFpu
  | .ged _ _ => .registerFpu
  | .lb _ _ _ => .load
  | .lbu _ _ _ => .load
  | .lh _ _ _ => .load
  | .lhu _ _ _ => .load
  | .lw _ _ _ => .load
  | .lf _ _ _ => .load
  | .ld _ _ _ => .load
  | .sb _ _ _ => .store
  | .sh _ _ _ => .store
  | .sw _ _ _ => .store
  | .sf _ _ _ => .store
  | .sd _ _ _ => .store
  | .beqz _ _ => .branch
  | .bnez _ _ => .branch
  | .bfpt _ => .branch
  | .bfpf _ => .branch
  | .j _ => .jump
  | .jal _ => .jump
  | .trap => .trap
  | .rfe => .unimplemented
  | .jr => .unimplemented
  | .jalr => .unimplemented
  | .movi2s => .unimplemented
  | .movs2i => .unimplemented
  | .sequ => .unimplemented
  | .sneu => .unimplemented
  | .sltu => .unimplemented
  | .sgtu => .unimplemented
  | .sleu => .unimplemented
  | .sgeu => .unimplemented
  | .sequi => .unimplemented
  | .sneui => .unimplemented
  | .sltui => .unimplemented
  | .sgtui => .unimplemented
  | .sleui => .unimplemented
  | .sgeui => .unimplemented
  | .movf => .unimplemented
  | .movd => .unimplemented
  | .movfp2i => .unimplemented
  | .movi2fp => .unimplemented
  | .cvtf2d => .unimplemented
  | .cvtf2i => .unimplemented
  | .cvtd2f => .unimplemented
  | .cvtd2i => .unimplemented
  | .cvti2f => .unimplemented
  | .cvti2d => .unimplemented
  | .multu => .unimplemented
  | .divu => .unimplemented

/-- The class of a word (R98): everything unassigned is Unimplemented (R104). -/
def classOf (w : Word) : InstrClass :=
  match decodeWord w with
  | some i => i.instrClass
  | none => .unimplemented

/-! ## Encoding (R99) -/

/-- A Register-format word (R91); `shamt` is written as 0 (R99). -/
def wordR (opcode : BitVec 6) (rs1 rs2 rd : Reg) (funct : BitVec 6) : Word :=
  opcode ++ rs1 ++ rs2 ++ rd ++ 0#5 ++ funct

/-- An Immediate-format word (R92). -/
def wordI (opcode : BitVec 6) (rs1 rd : Reg) (imm : BitVec 16) : Word := opcode ++ rs1 ++ rd ++ imm

/-- A Jump-format word (R93). -/
def wordJ (opcode : BitVec 6) (offset : BitVec 26) : Word := opcode ++ offset

/-- The word of an instruction; fields it does not use are 0 (R99). -/
def encode : Instr → Word
  | .nop => wordR 0x00 0 0 0 0x00
  | .add rd rs1 rs2 => wordR 0x00 rs1 rs2 rd 0x20
  | .addu rd rs1 rs2 => wordR 0x00 rs1 rs2 rd 0x21
  | .sub rd rs1 rs2 => wordR 0x00 rs1 rs2 rd 0x22
  | .subu rd rs1 rs2 => wordR 0x00 rs1 rs2 rd 0x23
  | .and rd rs1 rs2 => wordR 0x00 rs1 rs2 rd 0x24
  | .or rd rs1 rs2 => wordR 0x00 rs1 rs2 rd 0x25
  | .xor rd rs1 rs2 => wordR 0x00 rs1 rs2 rd 0x26
  | .sll rd rs1 rs2 => wordR 0x00 rs1 rs2 rd 0x04
  | .srl rd rs1 rs2 => wordR 0x00 rs1 rs2 rd 0x06
  | .sra rd rs1 rs2 => wordR 0x00 rs1 rs2 rd 0x07
  | .seq rd rs1 rs2 => wordR 0x00 rs1 rs2 rd 0x28
  | .sne rd rs1 rs2 => wordR 0x00 rs1 rs2 rd 0x29
  | .slt rd rs1 rs2 => wordR 0x00 rs1 rs2 rd 0x2A
  | .sgt rd rs1 rs2 => wordR 0x00 rs1 rs2 rd 0x2B
  | .sle rd rs1 rs2 => wordR 0x00 rs1 rs2 rd 0x2C
  | .sge rd rs1 rs2 => wordR 0x00 rs1 rs2 rd 0x2D
  | .addi rd rs1 imm => wordI 0x08 rs1 rd imm
  | .addui rd rs1 imm => wordI 0x09 rs1 rd imm
  | .subi rd rs1 imm => wordI 0x0A rs1 rd imm
  | .subui rd rs1 imm => wordI 0x0B rs1 rd imm
  | .andi rd rs1 imm => wordI 0x0C rs1 rd imm
  | .ori rd rs1 imm => wordI 0x0D rs1 rd imm
  | .xori rd rs1 imm => wordI 0x0E rs1 rd imm
  | .lhi rd imm => wordI 0x0F 0 rd imm
  | .slli rd rs1 imm => wordI 0x14 rs1 rd imm
  | .srli rd rs1 imm => wordI 0x16 rs1 rd imm
  | .srai rd rs1 imm => wordI 0x17 rs1 rd imm
  | .seqi rd rs1 imm => wordI 0x18 rs1 rd imm
  | .snei rd rs1 imm => wordI 0x19 rs1 rd imm
  | .slti rd rs1 imm => wordI 0x1A rs1 rd imm
  | .sgti rd rs1 imm => wordI 0x1B rs1 rd imm
  | .slei rd rs1 imm => wordI 0x1C rs1 rd imm
  | .sgei rd rs1 imm => wordI 0x1D rs1 rd imm
  | .addf rd rs1 rs2 => wordR 0x01 rs1 rs2 rd 0x00
  | .subf rd rs1 rs2 => wordR 0x01 rs1 rs2 rd 0x01
  | .multf rd rs1 rs2 => wordR 0x01 rs1 rs2 rd 0x02
  | .divf rd rs1 rs2 => wordR 0x01 rs1 rs2 rd 0x03
  | .addd rd rs1 rs2 => wordR 0x01 rs1 rs2 rd 0x04
  | .subd rd rs1 rs2 => wordR 0x01 rs1 rs2 rd 0x05
  | .multd rd rs1 rs2 => wordR 0x01 rs1 rs2 rd 0x06
  | .divd rd rs1 rs2 => wordR 0x01 rs1 rs2 rd 0x07
  | .mult rd rs1 rs2 => wordR 0x01 rs1 rs2 rd 0x0E
  | .div rd rs1 rs2 => wordR 0x01 rs1 rs2 rd 0x0F
  | .eqf rs1 rs2 => wordR 0x01 rs1 rs2 0 0x10
  | .nef rs1 rs2 => wordR 0x01 rs1 rs2 0 0x11
  | .ltf rs1 rs2 => wordR 0x01 rs1 rs2 0 0x12
  | .gtf rs1 rs2 => wordR 0x01 rs1 rs2 0 0x13
  | .lef rs1 rs2 => wordR 0x01 rs1 rs2 0 0x14
  | .gef rs1 rs2 => wordR 0x01 rs1 rs2 0 0x15
  | .eqd rs1 rs2 => wordR 0x01 rs1 rs2 0 0x18
  | .ned rs1 rs2 => wordR 0x01 rs1 rs2 0 0x19
  | .ltd rs1 rs2 => wordR 0x01 rs1 rs2 0 0x1A
  | .gtd rs1 rs2 => wordR 0x01 rs1 rs2 0 0x1B
  | .led rs1 rs2 => wordR 0x01 rs1 rs2 0 0x1C
  | .ged rs1 rs2 => wordR 0x01 rs1 rs2 0 0x1D
  | .lb rd rs1 imm => wordI 0x20 rs1 rd imm
  | .lbu rd rs1 imm => wordI 0x24 rs1 rd imm
  | .lh rd rs1 imm => wordI 0x21 rs1 rd imm
  | .lhu rd rs1 imm => wordI 0x25 rs1 rd imm
  | .lw rd rs1 imm => wordI 0x23 rs1 rd imm
  | .lf rd rs1 imm => wordI 0x26 rs1 rd imm
  | .ld rd rs1 imm => wordI 0x27 rs1 rd imm
  | .sb rd rs1 imm => wordI 0x28 rs1 rd imm
  | .sh rd rs1 imm => wordI 0x29 rs1 rd imm
  | .sw rd rs1 imm => wordI 0x2B rs1 rd imm
  | .sf rd rs1 imm => wordI 0x2E rs1 rd imm
  | .sd rd rs1 imm => wordI 0x2F rs1 rd imm
  | .beqz rs1 imm => wordI 0x04 rs1 0 imm
  | .bnez rs1 imm => wordI 0x05 rs1 0 imm
  | .bfpt imm => wordI 0x06 0 0 imm
  | .bfpf imm => wordI 0x07 0 0 imm
  | .j offset => wordJ 0x02 offset
  | .jal offset => wordJ 0x03 offset
  | .trap => wordJ 0x11 0
  | .rfe => wordJ 0x10 0
  | .jr => wordI 0x12 0 0 0
  | .jalr => wordI 0x13 0 0 0
  | .movi2s => wordR 0x00 0 0 0 0x30
  | .movs2i => wordR 0x00 0 0 0 0x31
  | .sequ => wordR 0x00 0 0 0 0x10
  | .sneu => wordR 0x00 0 0 0 0x11
  | .sltu => wordR 0x00 0 0 0 0x12
  | .sgtu => wordR 0x00 0 0 0 0x13
  | .sleu => wordR 0x00 0 0 0 0x14
  | .sgeu => wordR 0x00 0 0 0 0x15
  | .sequi => wordI 0x30 0 0 0
  | .sneui => wordI 0x31 0 0 0
  | .sltui => wordI 0x32 0 0 0
  | .sgtui => wordI 0x33 0 0 0
  | .sleui => wordI 0x34 0 0 0
  | .sgeui => wordI 0x35 0 0 0
  | .movf => wordR 0x00 0 0 0 0x32
  | .movd => wordR 0x00 0 0 0 0x33
  | .movfp2i => wordR 0x00 0 0 0 0x34
  | .movi2fp => wordR 0x00 0 0 0 0x35
  | .cvtf2d => wordR 0x01 0 0 0 0x08
  | .cvtf2i => wordR 0x01 0 0 0 0x09
  | .cvtd2f => wordR 0x01 0 0 0 0x0A
  | .cvtd2i => wordR 0x01 0 0 0 0x0B
  | .cvti2f => wordR 0x01 0 0 0 0x0C
  | .cvti2d => wordR 0x01 0 0 0 0x0D
  | .multu => wordR 0x01 0 0 0 0x16
  | .divu => wordR 0x01 0 0 0 0x17

/-- The bytes of an instruction, lowest address first. -/
def encodeBytes (i : Instr) : List Byte := bytesOfWord (encode i)

end Sys2Proof
end

