-- ==== Sys2Proof/Config.lean ====
section
/-! DEFINITION. What a run fixes before its first cycle (R8), and the values the spec leaves free (R183, R203).
The free values are opaque: no proof can see what they are. -/

namespace Sys2Proof

/-- The four floating-point arithmetic operations of R181. -/
inductive FpArith where
  | add | sub | mul | div
deriving DecidableEq, Repr

/-- The two integer operations of the floating path (R200). -/
inductive IntMulDiv where
  | mult | div
deriving DecidableEq, Repr

/-- The parameters of `configure` (R8, R386). They are a constant of a run and part of the state after reset. -/
structure Configuration where
  /-- `FWD`: forwarding enabled. -/
  forwarding : Bool
  /-- `N_ALU`: number of integer ALU units. -/
  nAlu : Nat
  /-- `N_FADD`: number of FP add/subtract units. -/
  nFadd : Nat
  /-- `N_FMUL`: number of FP multiply units. -/
  nFmul : Nat
  /-- `N_FDIV`: number of FP divide units. -/
  nFdiv : Nat
  /-- `L_FADD`: latency in cycles of an FP add/subtract unit. -/
  lFadd : Nat
  /-- `L_FMUL`: latency in cycles of an FP multiply unit. -/
  lFmul : Nat
  /-- `L_FDIV`: latency in cycles of an FP divide unit. -/
  lFdiv : Nat
  /-- `MEMSIZE`: memory size in bytes. -/
  memSize : Nat
deriving DecidableEq, Repr

/-- The bounds of R8: every count and latency at least 1, the memory size at most 2^32. -/
def Configuration.wf (c : Configuration) : Bool :=
  decide (1 ≤ c.nAlu) && decide (1 ≤ c.nFadd) && decide (1 ≤ c.nFmul) && decide (1 ≤ c.nFdiv) &&
  decide (1 ≤ c.lFadd) && decide (1 ≤ c.lFmul) && decide (1 ≤ c.lFdiv) && decide (c.memSize ≤ 2 ^ 32)

/-- DESIGN CHOICE (unsafe, log 3): the configuration of `State.reset`. The spec gives no default (R8); forwarding on,
one unit a class and the latencies 2, 5, 19 are the example values of 95_test_vectors.md, and the memory is the
largest R8 allows, so that no address is cut off by a number the spec does not give. -/
def Configuration.sample : Configuration :=
  { forwarding := true, nAlu := 1, nFadd := 1, nFmul := 1, nFdiv := 1,
    lFadd := 2, lFmul := 5, lFdiv := 19, memSize := 2 ^ 32 }

/-- `nan_draw` for singles (R183, log 7): the sign, and one less than the fraction (so every NaN pattern of the
format is possible and no other). A free value. -/
opaque Config.nanDraw32 : FpArith → BitVec 32 → BitVec 32 → Bool × Fin 0x7FFFFF

/-- `nan_draw` for doubles (R183, log 7): the sign, and one less than the fraction. A free value. -/
opaque Config.nanDraw64 : FpArith → BitVec 64 → BitVec 64 → Bool × Fin 0xFFFFFFFFFFFFF

/-- `muldiv_draw` (R203, log 8): some 32-bit pattern that depends on the operation and the operands. A free value. -/
opaque Config.mulDivDraw : IntMulDiv → Word → Word → Word

/-- `CMP_TAG_BASE` (R305): the reserved threshold of the numeric tag form. DESIGN CHOICE (safe, log 19): the spec's
suggested 32; not observable. -/
def Config.cmpTagBase : Nat := 32

end Sys2Proof
end

