-- ==== Sys2Proof/Machine/State.lean ====
section
/-! DEFINITION. The state of the machine (10_state.md), as plain data, the reasons a step stops, and the state after
reset (R50, R430). -/

namespace Sys2Proof.Machine

/-! ## Operations, tags and records -/

/-- The fourteen operations of an integer ALU unit (45_functional_units.md R300). -/
inductive AluOp where
  | add | sub | and | or | xor | sll | srl | sra | seq | sne | slt | sle | sgt | sge
deriving DecidableEq, Repr

/-- The two floating-point formats (41_fp.md R181). -/
inductive Prec where
  | single | double
deriving DecidableEq, Repr

/-- The six relations of a comparison (R204). -/
inductive FpRel where
  | eq | ne | lt | gt | le | ge
deriving DecidableEq, Repr

/-- An operation a functional unit performs (R300, R301). -/
inductive UnitOp where
  | int (o : AluOp)
  | arith (o : FpArith) (p : Prec)
  | rel (r : FpRel) (p : Prec)
  | intMulDiv (o : IntMulDiv)
deriving DecidableEq, Repr

/-- The four unit classes (R290). -/
inductive UnitClass where
  | alu | fadd | fmul | fdiv
deriving DecidableEq, Repr

/-- A destination tag (R40): a general register, a single slot, a pair of slots, or the flag `FPS`. -/
inductive Tag where
  | r (i : Reg)
  | fs (i : Reg)
  | fd (i : Reg)
  | cc
deriving DecidableEq, Repr

/-- One register-file place that a tag or a source covers and a marker stands for (R41, R42, R348). -/
inductive Slot where
  | r (i : Reg)
  | f (i : Reg)
  | cc
deriving DecidableEq, Repr

/-- A completed result on its way to Writeback (R40). -/
structure Record where
  tag : Tag
  value : DWord
deriving DecidableEq, Repr

/-- The widths of a data access (R68). -/
inductive Width where
  | byte | half | word | double
deriving DecidableEq, Repr

/-- The pending memory access descriptor (R39). -/
inductive Access where
  | none
  | read (tag : Tag) (addr : Word) (n : Width) (signed : Bool)
  | write (addr : Word) (n : Width) (payload : DWord)
deriving DecidableEq, Repr

/-! ## Latches (R33 to R38) -/

/-- `IF_ID` (R35). -/
structure IfId where
  iw : Word
  pc : Word
deriving DecidableEq, Repr

/-- `ID_EX` (R36). -/
structure IdEx where
  iw : Word
  pc : Word
  a : DWord
  b : DWord
  cond : Bool
deriving DecidableEq, Repr

/-- `EX_MEM` (R37, R39). -/
structure ExMem where
  iw : Word
  pc : Word
  cond : Bool
  aluout : Word
  acc : Access
deriving DecidableEq, Repr

/-- `MEM_WB` (R38). -/
structure MemWb where
  iw : Word
  pc : Word
  resAlu : Option Record
  resFadd : Option Record
  resFmul : Option Record
  resFdiv : Option Record
  lmd : Option Record
deriving DecidableEq, Repr

/-- The NOP value of `IF_ID` (R34). -/
def nopIfId : IfId := { iw := 0, pc := 0 }

/-- The NOP value of `ID_EX` (R34). -/
def nopIdEx : IdEx := { iw := 0, pc := 0, a := 0, b := 0, cond := false }

/-- The NOP value of `EX_MEM` (R34). -/
def nopExMem : ExMem := { iw := 0, pc := 0, cond := false, aluout := 0, acc := .none }

/-- The NOP value of `MEM_WB` (R34). -/
def nopMemWb : MemWb :=
  { iw := 0, pc := 0, resAlu := none, resFadd := none, resFmul := none, resFdiv := none, lmd := none }

/-! ## Functional units -/

/-- The three states of a unit (R43, R291). -/
inductive FuncUnit where
  | idle
  | busy (a b : DWord) (op : UnitOp) (rem : Nat) (tag : Tag)
  | done (val : DWord) (tag : Tag)
deriving DecidableEq, Repr

/-! ## State -/

/-- Memory (R32): the bytes that differ from 0, by rising address. -/
abbrev Memory := List Host.Cell

/-- Every piece of state of 10_state.md. -/
structure State where
  /-- The configuration of the run (R8, R31). -/
  cfg : Configuration
  /-- `R[0]` to `R[31]` (R20). -/
  regs : Vector Word 32
  /-- `F[0]` to `F[31]` (R26). -/
  fregs : Vector Word 32
  /-- `FPS` (R30). -/
  fps : Bool
  /-- `PC` (R23). -/
  pc : Word
  /-- `M` (R32). -/
  mem : Memory
  /-- The latch `IF_ID` (R35). -/
  ifId : IfId
  /-- The latch `ID_EX` (R36). -/
  idEx : IdEx
  /-- The latch `EX_MEM` (R37). -/
  exMem : ExMem
  /-- The latch `MEM_WB` (R38). -/
  memWb : MemWb
  /-- The markers `UI` (R41). -/
  ui : Vector Bool 32
  /-- The markers `UF` (R41). -/
  uf : Vector Bool 32
  /-- The marker `UC` (R42). -/
  uc : Bool
  /-- The pool `ALU` (R43). -/
  aluPool : List FuncUnit
  /-- The pool `FADD` (R43). -/
  faddPool : List FuncUnit
  /-- The pool `FMUL` (R43). -/
  fmulPool : List FuncUnit
  /-- The pool `FDIV` (R43). -/
  fdivPool : List FuncUnit
  /-- A `TRAP` has reached Writeback (R44, R405). -/
  halted : Bool
  /-- The run was ended by a fatal condition (R44, R402). A step that raises one answers with the outcome `fault` and
  no state, so no step sets this bit (log 12). -/
  fatal : Bool
  /-- The last cycle held Fetch and Decode (R44, R360); no rule reads it. -/
  stalled : Bool
deriving DecidableEq, Repr

/-! ## Reasons to stop -/

/-- The fatal conditions (60_exceptions.md R402, R403). -/
inductive Fault where
  /-- `OutOfRange` (data): raised by a load or store in the Memory stage, and by its meaning, with the address (R66).
  Safe: the spec ends the run there and says nothing of the state it leaves (R402). -/
  | outOfRangeData (addr : Word)
  /-- `OutOfRange` (fetch): raised by Fetch with the value of `PC` (R67). Safe, as above. -/
  | outOfRangeFetch (pc : Word)
  /-- `Precondition`: raised by `load` on a unit that is not Idle, with the unit (R293). Safe; the dispatch guard R354
  keeps it from ever being raised (log 18). -/
  | precondition (cls : UnitClass) (unit : Nat)
deriving DecidableEq, Repr

/-- Why the model gives an instruction no meaning. -/
inductive Refusal where
  /-- An instruction not modelled yet: raised by `exec` alone; no arm of this model raises it. Safe. -/
  | notModelled (mnemonic : String)
  /-- A double-precision source or destination at slot 31, which has no next slot: raised when Execute takes it and by
  its meaning, because the spec says a model must refuse it (R28, R341, U6; log 9). Safe. -/
  | doubleAtSlot31
deriving DecidableEq, Repr

/-! ## Reset -/

/-- The state after `configure`, reset and program load (R50, R392, R430), for any configuration, image and start. -/
def State.resetWith (cfg : Configuration) (image : Memory) (startPc : Word) : State :=
  { cfg := cfg
    regs := Vector.replicate 32 0
    fregs := Vector.replicate 32 0
    fps := false
    pc := startPc
    mem := image
    ifId := nopIfId
    idEx := nopIdEx
    exMem := nopExMem
    memWb := nopMemWb
    ui := Vector.replicate 32 false
    uf := Vector.replicate 32 false
    uc := false
    aluPool := List.replicate cfg.nAlu .idle
    faddPool := List.replicate cfg.nFadd .idle
    fmulPool := List.replicate cfg.nFmul .idle
    fdivPool := List.replicate cfg.nFdiv .idle
    halted := false
    fatal := false
    stalled := false }

/-- The machine right after reset. DESIGN CHOICE (unsafe, log 3 and 4): the spec leaves the configuration, the image
and the start to the caller and the loader; here they are `Configuration.sample`, no byte set, and 0. -/
def State.reset : State := State.resetWith Configuration.sample [] 0

end Sys2Proof.Machine
end

