-- ==== Sys2Proof/Machine/Float.lean ====
section
/-! DEFINITION. The IEEE arithmetic functions `fp32` and `fp64` (41_fp.md R181 to R185).
A pattern is taken as a number. Every finite value is a whole number of the format's smallest subnormal, here called a
unit, so sums and products are exact, and one function rounds an exact non-negative rational number of units to
nearest, ties to even. -/

namespace Sys2Proof.Machine

/-- A binary interchange format (R181). -/
structure FloatFormat where
  expBits : Nat
  fracBits : Nat
deriving DecidableEq, Repr

/-- IEEE 754 binary32 (R181). -/
def binary32 : FloatFormat := { expBits := 8, fracBits := 23 }

/-- IEEE 754 binary64 (R181). -/
def binary64 : FloatFormat := { expBits := 11, fracBits := 52 }

/-- The exponent field of infinities and NaNs: all ones. -/
def FloatFormat.expMax (f : FloatFormat) : Nat := 2 ^ f.expBits - 1

/-- The weight of the sign bit. -/
def FloatFormat.signBit (f : FloatFormat) : Nat := 2 ^ (f.expBits + f.fracBits)

/-- The sign-less pattern of infinity. -/
def FloatFormat.infMag (f : FloatFormat) : Nat := f.expMax * 2 ^ f.fracBits

/-- One is `2 ^ unitLog` units: the bias plus the fraction bits, less one. -/
def FloatFormat.unitLog (f : FloatFormat) : Nat := 2 ^ (f.expBits - 1) + f.fracBits - 2

/-- The sign bit of a pattern. -/
def fpSign (f : FloatFormat) (x : Nat) : Bool := decide (x / f.signBit % 2 = 1)

/-- The exponent field of a pattern. -/
def fpExp (f : FloatFormat) (x : Nat) : Nat := x / 2 ^ f.fracBits % 2 ^ f.expBits

/-- The fraction field of a pattern. -/
def fpFrac (f : FloatFormat) (x : Nat) : Nat := x % 2 ^ f.fracBits

/-- Exponent all ones, fraction not zero (R183). -/
def fpIsNaN (f : FloatFormat) (x : Nat) : Bool := decide (fpExp f x = f.expMax) && decide (fpFrac f x ≠ 0)

/-- Exponent all ones, fraction zero. -/
def fpIsInf (f : FloatFormat) (x : Nat) : Bool := decide (fpExp f x = f.expMax) && decide (fpFrac f x = 0)

/-- Plus or minus zero. -/
def fpIsZero (f : FloatFormat) (x : Nat) : Bool := decide (fpExp f x = 0) && decide (fpFrac f x = 0)

/-- The magnitude of a finite pattern in units; subnormals at their value (R184). Infinity gets a number above every
finite one. -/
def fpUnits (f : FloatFormat) (x : Nat) : Nat :=
  if fpExp f x = 0 then fpFrac f x else (2 ^ f.fracBits + fpFrac f x) * 2 ^ (fpExp f x - 1)

/-- The signed value in units. -/
def fpValue (f : FloatFormat) (x : Nat) : Int :=
  if fpSign f x then -(fpUnits f x : Int) else (fpUnits f x : Int)

/-- A pattern from a sign and a sign-less pattern. -/
def fpPack (f : FloatFormat) (sign : Bool) (mag : Nat) : Nat := (if sign then f.signBit else 0) + mag

/-- Round-to-nearest, ties-to-even (R182): the sign-less pattern of the value of the format nearest to `n / d` units,
infinity where that rounds beyond the largest finite value (R184). With `k` the number of bits to drop and `m` the
rounded significand, the pattern is `k * 2^fracBits + m`, a carry out of `m` included. -/
def fpRound (f : FloatFormat) (n d : Nat) : Nat :=
  let q := n / d
  let k := if q < 2 ^ (f.fracBits + 1) then 0 else Nat.log2 q - f.fracBits
  let step := d * 2 ^ k
  let m := n / step
  let r := n % step
  let m' := if step < 2 * r ∨ (2 * r = step ∧ m % 2 = 1) then m + 1 else m
  min (k * 2 ^ f.fracBits + m') f.infMag

/-- Addition of two patterns; `none` stands for a NaN result (R182 to R184). An exact zero is `+0` unless both operands
are negative. -/
def fpAdd (f : FloatFormat) (x y : Nat) : Option Nat :=
  if fpIsNaN f x || fpIsNaN f y then none
  else if fpIsInf f x then
    if fpIsInf f y && (fpSign f x != fpSign f y) then none else some (fpPack f (fpSign f x) f.infMag)
  else if fpIsInf f y then some (fpPack f (fpSign f y) f.infMag)
  else
    let z := fpValue f x + fpValue f y
    if z = 0 then some (fpPack f (fpSign f x && fpSign f y) 0)
    else some (fpPack f (decide (z < 0)) (fpRound f z.natAbs 1))

/-- The pattern with its sign bit flipped. -/
def fpNeg (f : FloatFormat) (x : Nat) : Nat := fpPack f (!fpSign f x) (x % f.signBit)

/-- Subtraction: first operand minus second (R191). -/
def fpSub (f : FloatFormat) (x y : Nat) : Option Nat := fpAdd f x (fpNeg f y)

/-- Multiplication. -/
def fpMul (f : FloatFormat) (x y : Nat) : Option Nat :=
  let sign := fpSign f x != fpSign f y
  if fpIsNaN f x || fpIsNaN f y then none
  else if fpIsInf f x || fpIsInf f y then
    if fpIsZero f x || fpIsZero f y then none else some (fpPack f sign f.infMag)
  else some (fpPack f sign (fpRound f (fpUnits f x * fpUnits f y) (2 ^ f.unitLog)))

/-- Division: first operand by second (R193). A non-zero finite value by zero is an infinity (R184). -/
def fpDiv (f : FloatFormat) (x y : Nat) : Option Nat :=
  let sign := fpSign f x != fpSign f y
  if fpIsNaN f x || fpIsNaN f y then none
  else if fpIsInf f x then
    if fpIsInf f y then none else some (fpPack f sign f.infMag)
  else if fpIsInf f y then some (fpPack f sign 0)
  else if fpIsZero f y then
    if fpIsZero f x then none else some (fpPack f sign f.infMag)
  else some (fpPack f sign (fpRound f (fpUnits f x * 2 ^ f.unitLog) (fpUnits f y)))

/-- The operation of R181; `none` stands for a NaN result. -/
def fpArith (f : FloatFormat) (o : FpArith) (x y : Nat) : Option Nat :=
  match o with
  | .add => fpAdd f x y
  | .sub => fpSub f x y
  | .mul => fpMul f x y
  | .div => fpDiv f x y

/-- The NaN pattern of a draw (R183): a sign, exponent all ones, and a fraction that is not 0. -/
def fpNaN (f : FloatFormat) (sign : Bool) (fracLess1 : Nat) : Nat := fpPack f sign (f.infMag + (fracLess1 + 1))

/-- `fp32.add`, `fp32.sub`, `fp32.mul`, `fp32.div` (R181), a NaN result drawn (R183). -/
def fp32 (o : FpArith) (a b : BitVec 32) : BitVec 32 :=
  match fpArith binary32 o a.toNat b.toNat with
  | some p => BitVec.ofNat 32 p
  | none => BitVec.ofNat 32 (fpNaN binary32 (Config.nanDraw32 o a b).1 (Config.nanDraw32 o a b).2.val)

/-- `fp64.add`, `fp64.sub`, `fp64.mul`, `fp64.div` (R181), a NaN result drawn (R183). -/
def fp64 (o : FpArith) (a b : BitVec 64) : BitVec 64 :=
  match fpArith binary64 o a.toNat b.toNat with
  | some p => BitVec.ofNat 64 p
  | none => BitVec.ofNat 64 (fpNaN binary64 (Config.nanDraw64 o a b).1 (Config.nanDraw64 o a b).2.val)

end Sys2Proof.Machine
end

