-- ==== Sys2Proof/Machine/Ops.lean ====
section
/-! DEFINITION. The named operations over registers, memory, tags and markers, and the two ways a run ends
(10_state.md, 20_memory.md, 46_pipeline_engine.md R336, 60_exceptions.md R405). -/

namespace Sys2Proof.Machine

/-! ## Bit fields -/

/-- The low 32 bits. -/
def lo32 (v : DWord) : Word := v.setWidth 32

/-- The high 32 bits. -/
def hi32 (v : DWord) : Word := v.extractLsb' 32 32

/-- A 32-bit value in the low half of a 64-bit field, the high half zero (R36). -/
def wide (v : Word) : DWord := v.setWidth 64

/-- A bit as the 32-bit value 0 or 1. -/
def bit32 (b : Bool) : Word := if b then 1 else 0

/-! ## Register files (R20, R26, R27) -/

/-- Entry `i` of a file of 32. -/
def fileGet {α : Type} (v : Vector α 32) (i : Reg) : α := v[i.toNat]'(by have := i.isLt; omega)

/-- A file of 32 with entry `i` replaced. -/
def fileSet {α : Type} (v : Vector α 32) (i : Reg) (x : α) : Vector α 32 :=
  v.set i.toNat x (by have := i.isLt; omega)

/-- `R[i]`. `R[0]` is an ordinary register (R21). -/
def State.readReg (s : State) (i : Reg) : Word := fileGet s.regs i

/-- `R[i] <- v`. -/
def State.writeReg (s : State) (i : Reg) (v : Word) : State := { s with regs := fileSet s.regs i v }

/-- `F[i]`. -/
def State.readF (s : State) (i : Reg) : Word := fileGet s.fregs i

/-- `F[i] <- v`. -/
def State.writeF (s : State) (i : Reg) (v : Word) : State := { s with fregs := fileSet s.fregs i v }

/-- `FD[i]`, the pattern `F[i+1] ++ F[i]` (R27). -/
def State.readFD (s : State) (i : Reg) : DWord := s.readF (i + 1) ++ s.readF i

/-- `FD[i] <- v` (R13, R27). -/
def State.writeFD (s : State) (i : Reg) (v : DWord) : State := (s.writeF i (lo32 v)).writeF (i + 1) (hi32 v)

/-- `FPS <- b` (R30). -/
def State.writeFps (s : State) (b : Bool) : State := { s with fps := b }

/-! ## Program counter (R24) -/

/-- `PC <- v`. -/
def State.setPc (s : State) (v : Word) : State := { s with pc := v }

/-- The next instruction is the one at `pc + 4`. -/
def State.advance (s : State) : State := s.setPc (s.pc + 4)

/-! ## Memory (20_memory.md) -/

/-- What a byte nothing has set reads as (R389). -/
def unlistedByte : Byte := 0

/-- `M[a]`. -/
def readByte : Memory → Nat → Byte
  | [], _ => unlistedByte
  | (b, v) :: rest, a => if b = a then v else readByte rest a

/-- `M[a] <- v`, keeping the canonical form: a byte that reads as an unlisted one is not listed. -/
def writeByte : Memory → Nat → Byte → Memory
  | [], a, v => if v = unlistedByte then [] else [(a, v)]
  | (b, w) :: rest, a, v =>
    if a < b then
      if v = unlistedByte then (b, w) :: rest else (a, v) :: (b, w) :: rest
    else if a = b then
      if v = unlistedByte then rest else (a, v) :: rest
    else (b, w) :: writeByte rest a v

/-- The canonical form: addresses strictly rising, no entry equal to an unlisted byte. -/
def Memory.wf : Memory → Bool
  | [] => true
  | (a, v) :: rest => v != unlistedByte && rest.all (fun c => decide (a < c.1)) && Memory.wf rest

/-- The bytes `a` to `a + n - 1`, little-endian (R61, R63): the sum of `M[a+k] * 2^(8k)`. -/
def readLE (m : Memory) (a : Nat) : Nat → Nat
  | 0 => 0
  | n + 1 => (readByte m a).toNat + 256 * readLE m (a + 1) n

/-- The low `n` bytes of `v` to `a` to `a + n - 1`, little-endian (R61, R64). -/
def writeLE (m : Memory) (a : Nat) : Nat → Nat → Memory
  | 0, _ => m
  | n + 1, v => writeLE (writeByte m a (BitVec.ofNat 8 v)) (a + 1) n (v / 256)

/-- The number of bytes of a width (R68). -/
def Width.bytes : Width → Nat
  | .byte => 1
  | .half => 2
  | .word => 4
  | .double => 8

/-- R66: the access lies below `MEMSIZE`, computed without wrap-around. -/
def inRange (memSize : Nat) (addr : Word) (n : Nat) : Bool := decide (addr.toNat + n ≤ memSize)

/-- `MemRead(addr, n)` (R63); `none`: out of range. -/
def memRead (memSize : Nat) (m : Memory) (addr : Word) (n : Width) : Option DWord :=
  if inRange memSize addr n.bytes then some (BitVec.ofNat 64 (readLE m addr.toNat n.bytes)) else none

/-- `MemWrite(addr, n, v)` (R64); `none`: out of range, no byte written. -/
def memWrite (memSize : Nat) (m : Memory) (addr : Word) (n : Width) (v : DWord) : Option Memory :=
  if inRange memSize addr n.bytes then some (writeLE m addr.toNat n.bytes v.toNat) else none

/-- The word Fetch reads at an address, `none` out of range (R67, R90). -/
def fetchWord (memSize : Nat) (m : Memory) (pc : Word) : Option Word :=
  (memRead memSize m pc .word).map lo32

/-- Bytes stored from an address on: the byte array a program load leaves (R390: "a model needs only the resulting byte
array"). DESIGN CHOICE (unsafe, log 23): no range check, unlike `memWrite`; the spec names no outcome of a load that does
not fit (R403, R434). -/
def storeBytes (m : Memory) (a : Nat) : List Byte → Memory
  | [] => m
  | b :: bs => storeBytes (writeByte m a b) (a + 1) bs

/-- The record value of a load: narrower than 4 bytes it is extended to 32 bits, by sign if `signed` and by zeros if
not (R325); 32-bit values sit in the low half (R38). -/
def extendLoad (n : Width) (signed : Bool) (v : DWord) : DWord :=
  match n with
  | .byte => wide (if signed then (v.setWidth 8).signExtend 32 else (v.setWidth 8).setWidth 32)
  | .half => wide (if signed then (v.setWidth 16).signExtend 32 else (v.setWidth 16).setWidth 32)
  | .word => wide (lo32 v)
  | .double => v

/-- The payload of a store: the low `8n` bits of the staged data (R223, R353). -/
def cutStore (n : Width) (v : DWord) : DWord :=
  match n with
  | .byte => (v.setWidth 8).setWidth 64
  | .half => (v.setWidth 16).setWidth 64
  | .word => (v.setWidth 32).setWidth 64
  | .double => v

/-! ## Tags, slots and markers (R40 to R42, R336, R356) -/

/-- R28: a pair tag is not slot 31. -/
def Tag.wf : Tag → Bool
  | .fd i => i != 31
  | _ => true

/-- The slots a tag covers (R41, R348). -/
def Tag.slots : Tag → List Slot
  | .r i => [.r i]
  | .fs i => [.f i]
  | .fd i => [.f i, .f (i + 1)]
  | .cc => [.cc]

/-- The value of a slot in the register files; the flag reads as 0 or 1. -/
def State.readSlot (s : State) : Slot → Word
  | .r i => s.readReg i
  | .f i => s.readF i
  | .cc => bit32 s.fps

/-- What a record gives a slot: for a pair, the low half to slot `i` and the high half to slot `i + 1` (R348). -/
def Record.valueFor (rec : Record) (sl : Slot) : Option Word :=
  match rec.tag with
  | .r i => if sl = .r i then some (lo32 rec.value) else none
  | .fs i => if sl = .f i then some (lo32 rec.value) else none
  | .fd i => if sl = .f i then some (lo32 rec.value) else if sl = .f (i + 1) then some (hi32 rec.value) else none
  | .cc => if sl = .cc then some (bit32 (rec.value.getLsbD 0)) else none

/-- The write of a record's value to the place its tag names (the column "writes" of R336). -/
def State.writeTag (s : State) (t : Tag) (v : DWord) : State :=
  match t with
  | .r i => s.writeReg i (lo32 v)
  | .fs i => s.writeF i (lo32 v)
  | .fd i => s.writeFD i v
  | .cc => s.writeFps (v.getLsbD 0)

/-- The marker of a slot. -/
def State.marker (s : State) : Slot → Bool
  | .r i => fileGet s.ui i
  | .f i => fileGet s.uf i
  | .cc => s.uc

/-- The marker of a slot set to `b`. -/
def State.setMarker (s : State) (sl : Slot) (b : Bool) : State :=
  match sl with
  | .r i => { s with ui := fileSet s.ui i b }
  | .f i => { s with uf := fileSet s.uf i b }
  | .cc => { s with uc := b }

/-- The markers of several slots set to `b`. -/
def State.setMarkers (s : State) : List Slot → Bool → State
  | [], _ => s
  | sl :: rest, b => (s.setMarker sl b).setMarkers rest b

/-- Commit of a record (R336): write, and clear the markers. -/
def State.commit (s : State) (rec : Record) : State :=
  (s.writeTag rec.tag rec.value).setMarkers rec.tag.slots false

/-- Commit of a record that may be absent (R335). -/
def State.commitOpt (s : State) : Option Record → State
  | none => s
  | some rec => s.commit rec

/-- The link register of `JAL` (R257). -/
def linkReg : Reg := 31

/-- A model that wants the numeric tag form can use this (R304): 0 to 31 for a register or slot, `CMP_TAG_BASE` for
the flag. No rule depends on it. -/
def Tag.number : Tag → Nat
  | .r i => i.toNat
  | .fs i => i.toNat
  | .fd i => i.toNat
  | .cc => Config.cmpTagBase

/-! ## Pools (R43, R290) -/

/-- The pool of a class. -/
def State.pool (s : State) : UnitClass → List FuncUnit
  | .alu => s.aluPool
  | .fadd => s.faddPool
  | .fmul => s.fmulPool
  | .fdiv => s.fdivPool

/-- The pool of a class replaced. -/
def State.setPool (s : State) (k : UnitClass) (p : List FuncUnit) : State :=
  match k with
  | .alu => { s with aluPool := p }
  | .fadd => { s with faddPool := p }
  | .fmul => { s with fmulPool := p }
  | .fdiv => { s with fdivPool := p }

/-- How many units a class has (R8). -/
def unitCount (cfg : Configuration) : UnitClass → Nat
  | .alu => cfg.nAlu
  | .fadd => cfg.nFadd
  | .fmul => cfg.nFmul
  | .fdiv => cfg.nFdiv

/-- The latency of a class (R294): 1 for the integer units, configured for the others. -/
def latency (cfg : Configuration) : UnitClass → Nat
  | .alu => 1
  | .fadd => cfg.lFadd
  | .fmul => cfg.lFmul
  | .fdiv => cfg.lFdiv

/-! ## The end of a run -/

/-- `halt` (R270, R405): the run's normal end. The hardware has no exception to take (R400), so this and the outcome
`fault` are all that ends a run. -/
def State.halt (s : State) : State := { s with halted := true }

end Sys2Proof.Machine
end

