-- ==== Sys2Proof/Machine/Flags.lean ====
section
/-! DEFINITION. The one flag `FPS` (R30): the six relations that write it (R204) and the conditions that read it or a
register (R347). No instruction writes a flag as a side effect. -/

namespace Sys2Proof.Machine

/-- A relation on two patterns read as IEEE values (R204): zeros of either sign are equal, and with a NaN only "not
equal" holds. -/
def fpRelHolds (f : FloatFormat) (r : FpRel) (x y : Nat) : Bool :=
  if fpIsNaN f x || fpIsNaN f y then decide (r = .ne)
  else
    match r with
    | .eq => decide (fpValue f x = fpValue f y)
    | .ne => decide (fpValue f x ≠ fpValue f y)
    | .lt => decide (fpValue f x < fpValue f y)
    | .gt => decide (fpValue f x > fpValue f y)
    | .le => decide (fpValue f x ≤ fpValue f y)
    | .ge => decide (fpValue f x ≥ fpValue f y)

/-- A comparison of two staged operands in a format (R204, R301): single forms use the low 32 bits. -/
def compareFp (r : FpRel) (p : Prec) (a b : DWord) : Bool :=
  match p with
  | .single => fpRelHolds binary32 r (lo32 a).toNat (lo32 b).toNat
  | .double => fpRelHolds binary64 r a.toNat b.toNat

/-- What a conditional branch tests (R252 to R255). -/
inductive BranchTest where
  | zero (i : Reg)
  | nonZero (i : Reg)
  | flagTrue
  | flagFalse
deriving DecidableEq, Repr

/-- The condition of a branch, from its staged operand `A` (R347). -/
def BranchTest.holds (t : BranchTest) (a : DWord) : Bool :=
  match t with
  | .zero _ => decide (lo32 a = 0)
  | .nonZero _ => decide (lo32 a ≠ 0)
  | .flagTrue => a.getLsbD 0
  | .flagFalse => !a.getLsbD 0

end Sys2Proof.Machine
end

