-- ==== Sys2Proof/Machine/Units.lean ====
section
/-! DEFINITION. The functional units (45_functional_units.md): what each operation computes (R300, R301), and the three
operations of a unit, `load`, `tick`, `take_result` (R292 to R299). -/

namespace Sys2Proof.Machine

/-! ## Operations -/

/-- The unit class that performs an operation (R217, R301). -/
def UnitOp.unitClass : UnitOp → UnitClass
  | .int _ => .alu
  | .arith .add _ => .fadd
  | .arith .sub _ => .fadd
  | .arith .mul _ => .fmul
  | .arith .div _ => .fdiv
  | .rel _ _ => .fadd
  | .intMulDiv .mult => .fmul
  | .intMulDiv .div => .fdiv

/-- The shift amount: the low 5 bits of the second operand (R138). -/
def shiftAmount (b : Word) : Nat := b.toNat % 32

/-- The integer ALU operations (R300). -/
def computeInt (o : AluOp) (a b : Word) : Word :=
  match o with
  | .add => a + b
  | .sub => a - b
  | .and => a &&& b
  | .or => a ||| b
  | .xor => a ^^^ b
  | .sll => a <<< shiftAmount b
  | .srl => a >>> shiftAmount b
  | .sra => a.sshiftRight (shiftAmount b)
  | .seq => bit32 (decide (a = b))
  | .sne => bit32 (decide (a ≠ b))
  | .slt => bit32 (decide (a.toInt < b.toInt))
  | .sle => bit32 (decide (a.toInt ≤ b.toInt))
  | .sgt => bit32 (decide (a.toInt > b.toInt))
  | .sge => bit32 (decide (a.toInt ≥ b.toInt))

/-- Integer multiply and divide through the floating path (R200 to R203): exact where the truncated double is exact,
the draw elsewhere. -/
def computeIntMulDiv (o : IntMulDiv) (a b : Word) : Word :=
  match o with
  | .mult =>
    if -2 ^ 31 ≤ a.toInt * b.toInt ∧ a.toInt * b.toInt < 2 ^ 31 then BitVec.ofInt 32 (a.toInt * b.toInt)
    else Config.mulDivDraw .mult a b
  | .div =>
    if b ≠ 0 ∧ ¬(a.toInt = -2 ^ 31 ∧ b.toInt = -1) then BitVec.ofInt 32 (a.toInt.tdiv b.toInt)
    else Config.mulDivDraw .div a b

/-- `compute(op, a, b)` (R296, R300, R301); results of 32 bits or of one bit sit in the low end, the rest zero. -/
def compute (op : UnitOp) (a b : DWord) : DWord :=
  match op with
  | .int o => wide (computeInt o (lo32 a) (lo32 b))
  | .arith o .single => wide (fp32 o (lo32 a) (lo32 b))
  | .arith o .double => fp64 o a b
  | .rel r p => wide (bit32 (compareFp r p a b))
  | .intMulDiv o => wide (computeIntMulDiv o (lo32 a) (lo32 b))

/-! ## The unit contract -/

/-- `load(tag, a, b, op, latency)` (R292); `none`: the unit is not Idle (R293). -/
def FuncUnit.load (u : FuncUnit) (tag : Tag) (a b : DWord) (op : UnitOp) (lat : Nat) : Option FuncUnit :=
  match u with
  | .idle => some (.busy a b op lat tag)
  | _ => none

/-- `tick()` (R296, R297). -/
def FuncUnit.tick : FuncUnit → FuncUnit
  | .idle => .idle
  | .busy a b op rem tag => if rem - 1 = 0 then .done (compute op a b) tag else .busy a b op (rem - 1) tag
  | .done val tag => .done val tag

/-- `take_result()` (R298): the record of a Done unit, and the unit Idle at once. -/
def FuncUnit.takeResult : FuncUnit → Option Record × FuncUnit
  | .done val tag => (some { tag := tag, value := val }, .idle)
  | u => (none, u)

/-! ## Pools -/

/-- Every unit of a pool ticked once (R350). -/
def tickPool (p : List FuncUnit) : List FuncUnit := p.map FuncUnit.tick

/-- The result of the lowest-numbered Done unit, which becomes Idle; at most one is taken (R299, R351). -/
def unloadPool : List FuncUnit → Option Record × List FuncUnit
  | [] => (none, [])
  | u :: us =>
    match u.takeResult with
    | (some rec, u') => (some rec, u' :: us)
    | (none, _) => ((unloadPool us).1, u :: (unloadPool us).2)

/-- The number of the first Idle unit (R302). -/
def firstIdle : List FuncUnit → Option Nat
  | [] => none
  | .idle :: _ => some 0
  | _ :: us => (firstIdle us).map (· + 1)

/-- `load` on unit number `k` of a pool; `none`: the unit is not Idle, or there is no such unit (R293). -/
def loadPool (p : List FuncUnit) (k : Nat) (tag : Tag) (a b : DWord) (op : UnitOp) (lat : Nat) :
    Option (List FuncUnit) :=
  match p, k with
  | [], _ => none
  | u :: us, 0 => (u.load tag a b op lat).map (· :: us)
  | u :: us, k + 1 => (loadPool us k tag a b op lat).map (u :: ·)

end Sys2Proof.Machine
end

