-- ==== Sys2Proof/Machine/Operands.lean ====
section
/-! DEFINITION. Operand forms, and the path of an instruction: the one description that its meaning and the pipeline
both follow (R107, R130, R180, R220, R250, R346, R347, R353). -/

namespace Sys2Proof.Machine

/-! ## Immediates (R95, R96) -/

/-- `sext_16`. -/
def sext16 (imm : BitVec 16) : Word := imm.signExtend 32

/-- `zext_16`. -/
def zext16 (imm : BitVec 16) : Word := imm.setWidth 32

/-- `sext_26`. -/
def sext26 (offset : BitVec 26) : Word := offset.signExtend 32

/-- The effective address `u32(base + sext_16(imm))` (R221). -/
def effAddr (base : Word) (imm : BitVec 16) : Word := base + sext16 imm

/-- A branch target `u32(pc + 4 + sext_16(imm))` (R251). -/
def branchTarget (pc : Word) (imm : BitVec 16) : Word := pc + 4 + sext16 imm

/-- A jump target `u32(pc + 4 + sext_26(offset))` (R251). -/
def jumpTarget (pc : Word) (offset : BitVec 26) : Word := pc + 4 + sext26 offset

/-! ## Sources -/

/-- Where an operand comes from (R346). -/
inductive Source where
  /-- `R[i]`. -/
  | reg (i : Reg)
  /-- `F[i]`. -/
  | single (i : Reg)
  /-- `FD[i]`. -/
  | pair (i : Reg)
  /-- `FPS`. -/
  | flag
  /-- No state: an immediate or a constant. -/
  | const (v : Word)
deriving DecidableEq, Repr

/-- The slots a source covers (R107, R348). -/
def Source.slots : Source → List Slot
  | .reg i => [.r i]
  | .single i => [.f i]
  | .pair i => [.f i, .f (i + 1)]
  | .flag => [.cc]
  | .const _ => []

/-- The staged value of a source, given the value of each slot; 32-bit values sit in the low half (R346). -/
def Source.value (get : Slot → Word) : Source → DWord
  | .reg i => wide (get (.r i))
  | .single i => wide (get (.f i))
  | .pair i => get (.f (i + 1)) ++ get (.f i)
  | .flag => wide (get .cc)
  | .const v => wide v

/-! ## Paths -/

/-- The path of an instruction through the machine: what it reads, what is done with it, what it writes. -/
inductive Path where
  /-- Through a functional unit (R130, R180): the operation, the destination, the two operands. -/
  | unit (op : UnitOp) (dst : Tag) (a b : Source)
  /-- A load (R222): destination, base register, displacement, width, signedness. -/
  | load (dst : Tag) (base : Reg) (disp : BitVec 16) (n : Width) (signed : Bool)
  /-- A store (R223): base register, displacement, width, the data. -/
  | store (base : Reg) (disp : BitVec 16) (n : Width) (data : Source)
  /-- A conditional branch (R250). -/
  | branch (test : BranchTest) (disp : BitVec 16)
  /-- A jump (R250), with or without the link of `JAL` (R257). -/
  | jump (offset : BitVec 26) (link : Bool)
  /-- `TRAP` (R271). -/
  | trap
  /-- Nop and Unimplemented: nothing (R103, R272). -/
  | pass
  /-- A double-precision form that names slot 31: refused (R28, R341). -/
  | slot31
deriving DecidableEq, Repr

/-- A double-precision form: refused where one of the pairs it names has no next slot (R28). -/
def onPairs (is : List Reg) (p : Path) : Path := if is.all pairOk then p else .slot31

/-- The operand a branch tests (R346). -/
def BranchTest.source : BranchTest → Source
  | .zero i => .reg i
  | .nonZero i => .reg i
  | .flagTrue => .flag
  | .flagFalse => .flag

/-- The source of operand `A` (R346). -/
def Path.sourceA : Path → Source
  | .unit _ _ a _ => a
  | .load _ base _ _ _ => .reg base
  | .store base _ _ _ => .reg base
  | .branch test _ => test.source
  | _ => .const 0

/-- The source of operand `B` (R346). -/
def Path.sourceB : Path → Source
  | .unit _ _ _ b => b
  | .store _ _ _ data => data
  | _ => .const 0

/-- `srcs` (R107): every slot the instruction reads. -/
def Path.srcs (p : Path) : List Slot := p.sourceA.slots ++ p.sourceB.slots

/-- `dst` (R107). -/
def Path.dst : Path → Option Tag
  | .unit _ dst _ _ => some dst
  | .load dst _ _ _ _ => some dst
  | .jump _ true => some (.r linkReg)
  | _ => none

/-- The slots of `dst`. -/
def Path.dstSlots (p : Path) : List Slot := (p.dst.map Tag.slots).getD []

/-- `ID_EX.cond` from the staged operand `A` (R347). -/
def Path.cond (p : Path) (a : DWord) : Bool :=
  match p with
  | .branch test _ => test.holds a
  | .jump _ _ => true
  | _ => false

/-! ## The architectural effect (R13) -/

/-- The effect of one instruction "as if instructions ran one at a time, in program order" (R13): operands are read
before anything is written (R130, R198), the result goes to the destination, and the next instruction is the one at
`pc + 4` or at the target; a `TRAP`, after which there is none, leaves `PC` (R270, log 15). `PC` holds the
instruction's own address. Pipeline state is left as it is (log 1, 16). -/
def runAlone (p : Path) (s : State) : Host.Outcome State Fault Refusal :=
  match p with
  | .unit op dst a b => .next (s.writeTag dst (compute op (a.value s.readSlot) (b.value s.readSlot))).advance
  | .load dst base disp n signed =>
    match memRead s.cfg.memSize s.mem (effAddr (s.readReg base) disp) n with
    | none => .fault (.outOfRangeData (effAddr (s.readReg base) disp))
    | some v => .next (s.writeTag dst (extendLoad n signed v)).advance
  | .store base disp n data =>
    match memWrite s.cfg.memSize s.mem (effAddr (s.readReg base) disp) n (cutStore n (data.value s.readSlot)) with
    | none => .fault (.outOfRangeData (effAddr (s.readReg base) disp))
    | some m => .next { s with mem := m }.advance
  | .branch test disp =>
    .next (if test.holds (test.source.value s.readSlot) then s.setPc (branchTarget s.pc disp) else s.advance)
  | .jump offset link =>
    .next ((if link then s.writeReg linkReg (s.pc + 4) else s).setPc (jumpTarget s.pc offset))
  | .trap => .next s.halt
  | .pass => .next s.advance
  | .slot31 => .refused .doubleAtSlot31

end Sys2Proof.Machine
end

