-- ==== Sys2Proof/Machine/Control.lean ====
section
/-! DEFINITION. The branches and jumps (43_control.md). -/

namespace Sys2Proof.Machine

/-- The path of `BEQZ` (R252). -/
def pathBeqz (rs1 : Reg) (imm : BitVec 16) : Path := .branch (.zero rs1) imm

/-- `BEQZ` (R252): taken if `R[rs1] = 0`. -/
def execBeqz (rs1 : Reg) (imm : BitVec 16) (s : State) :
    Host.Outcome State Fault Refusal := runAlone (pathBeqz rs1 imm) s

/-- The path of `BNEZ` (R253). -/
def pathBnez (rs1 : Reg) (imm : BitVec 16) : Path := .branch (.nonZero rs1) imm

/-- `BNEZ` (R253): taken if `R[rs1] != 0`. -/
def execBnez (rs1 : Reg) (imm : BitVec 16) (s : State) :
    Host.Outcome State Fault Refusal := runAlone (pathBnez rs1 imm) s

/-- The path of `BFPT` (R254). -/
def pathBfpt (imm : BitVec 16) : Path := .branch .flagTrue imm

/-- `BFPT` (R254): taken if `FPS = 1`. -/
def execBfpt (imm : BitVec 16) (s : State) :
    Host.Outcome State Fault Refusal := runAlone (pathBfpt imm) s

/-- The path of `BFPF` (R255). -/
def pathBfpf (imm : BitVec 16) : Path := .branch .flagFalse imm

/-- `BFPF` (R255): taken if `FPS = 0`. -/
def execBfpf (imm : BitVec 16) (s : State) :
    Host.Outcome State Fault Refusal := runAlone (pathBfpf imm) s

/-- The path of `J` (R256). -/
def pathJ (offset : BitVec 26) : Path := .jump offset false

/-- `J` (R256): `pc <- u32(pc + 4 + sext_26(offset))`. -/
def execJ (offset : BitVec 26) (s : State) :
    Host.Outcome State Fault Refusal := runAlone (pathJ offset) s

/-- The path of `JAL` (R257). -/
def pathJal (offset : BitVec 26) : Path := .jump offset true

/-- `JAL` (R257): `R[31] <- u32(pc + 4)` and `pc <- u32(pc + 4 + sext_26(offset))`. -/
def execJal (offset : BitVec 26) (s : State) :
    Host.Outcome State Fault Refusal := runAlone (pathJal offset) s

end Sys2Proof.Machine
end

