-- ==== Sys2Proof/Machine/FloatingPoint.lean ====
section
/-! DEFINITION. The floating-point instructions and integer multiply and divide (41_fp.md). A double form
that names slot 31 is refused (R180). -/

namespace Sys2Proof.Machine

/-- The path of `ADDF` (R190). -/
def pathAddf (rd rs1 rs2 : Reg) : Path := .unit (.arith .add .single) (.fs rd) (.single rs1) (.single rs2)

/-- `ADDF` (R190): `F[rd] <- fp32.add(F[rs1], F[rs2])`. -/
def execAddf (rd rs1 rs2 : Reg) (s : State) :
    Host.Outcome State Fault Refusal := runAlone (pathAddf rd rs1 rs2) s

/-- The path of `SUBF` (R191). -/
def pathSubf (rd rs1 rs2 : Reg) : Path := .unit (.arith .sub .single) (.fs rd) (.single rs1) (.single rs2)

/-- `SUBF` (R191): `F[rd] <- fp32.sub(F[rs1], F[rs2])`. -/
def execSubf (rd rs1 rs2 : Reg) (s : State) :
    Host.Outcome State Fault Refusal := runAlone (pathSubf rd rs1 rs2) s

/-- The path of `MULTF` (R192). -/
def pathMultf (rd rs1 rs2 : Reg) : Path := .unit (.arith .mul .single) (.fs rd) (.single rs1) (.single rs2)

/-- `MULTF` (R192): `F[rd] <- fp32.mul(F[rs1], F[rs2])`. -/
def execMultf (rd rs1 rs2 : Reg) (s : State) :
    Host.Outcome State Fault Refusal := runAlone (pathMultf rd rs1 rs2) s

/-- The path of `DIVF` (R193). -/
def pathDivf (rd rs1 rs2 : Reg) : Path := .unit (.arith .div .single) (.fs rd) (.single rs1) (.single rs2)

/-- `DIVF` (R193): `F[rd] <- fp32.div(F[rs1], F[rs2])`. -/
def execDivf (rd rs1 rs2 : Reg) (s : State) :
    Host.Outcome State Fault Refusal := runAlone (pathDivf rd rs1 rs2) s

/-- The path of `ADDD` (R194). -/
def pathAddd (rd rs1 rs2 : Reg) : Path := onPairs [rd, rs1, rs2] (.unit (.arith .add .double) (.fd rd) (.pair rs1) (.pair rs2))

/-- `ADDD` (R194): `FD[rd] <- fp64.add(FD[rs1], FD[rs2])`. -/
def execAddd (rd rs1 rs2 : Reg) (s : State) :
    Host.Outcome State Fault Refusal := runAlone (pathAddd rd rs1 rs2) s

/-- The path of `SUBD` (R195). -/
def pathSubd (rd rs1 rs2 : Reg) : Path := onPairs [rd, rs1, rs2] (.unit (.arith .sub .double) (.fd rd) (.pair rs1) (.pair rs2))

/-- `SUBD` (R195): `FD[rd] <- fp64.sub(FD[rs1], FD[rs2])`. -/
def execSubd (rd rs1 rs2 : Reg) (s : State) :
    Host.Outcome State Fault Refusal := runAlone (pathSubd rd rs1 rs2) s

/-- The path of `MULTD` (R196). -/
def pathMultd (rd rs1 rs2 : Reg) : Path := onPairs [rd, rs1, rs2] (.unit (.arith .mul .double) (.fd rd) (.pair rs1) (.pair rs2))

/-- `MULTD` (R196): `FD[rd] <- fp64.mul(FD[rs1], FD[rs2])`. -/
def execMultd (rd rs1 rs2 : Reg) (s : State) :
    Host.Outcome State Fault Refusal := runAlone (pathMultd rd rs1 rs2) s

/-- The path of `DIVD` (R197). -/
def pathDivd (rd rs1 rs2 : Reg) : Path := onPairs [rd, rs1, rs2] (.unit (.arith .div .double) (.fd rd) (.pair rs1) (.pair rs2))

/-- `DIVD` (R197): `FD[rd] <- fp64.div(FD[rs1], FD[rs2])`. -/
def execDivd (rd rs1 rs2 : Reg) (s : State) :
    Host.Outcome State Fault Refusal := runAlone (pathDivd rd rs1 rs2) s

/-- The path of `MULT` (R201). -/
def pathMult (rd rs1 rs2 : Reg) : Path := .unit (.intMulDiv .mult) (.fs rd) (.single rs1) (.single rs2)

/-- `MULT` (R201): the signed product of the integers in `F[rs1]`, `F[rs2]` where it fits 32 bits, else a draw. -/
def execMult (rd rs1 rs2 : Reg) (s : State) :
    Host.Outcome State Fault Refusal := runAlone (pathMult rd rs1 rs2) s

/-- The path of `DIV` (R202). -/
def pathDiv (rd rs1 rs2 : Reg) : Path := .unit (.intMulDiv .div) (.fs rd) (.single rs1) (.single rs2)

/-- `DIV` (R202): the signed quotient, rounded toward zero, where it exists and fits, else a draw. -/
def execDiv (rd rs1 rs2 : Reg) (s : State) :
    Host.Outcome State Fault Refusal := runAlone (pathDiv rd rs1 rs2) s

/-- The path of `EQF` (R205). -/
def pathEqf (rs1 rs2 : Reg) : Path := .unit (.rel .eq .single) .cc (.single rs1) (.single rs2)

/-- `EQF` (R205): `FPS <- 1` if `F[rs1]` equals `F[rs2]`, else 0. -/
def execEqf (rs1 rs2 : Reg) (s : State) :
    Host.Outcome State Fault Refusal := runAlone (pathEqf rs1 rs2) s

/-- The path of `NEF` (R206). -/
def pathNef (rs1 rs2 : Reg) : Path := .unit (.rel .ne .single) .cc (.single rs1) (.single rs2)

/-- `NEF` (R206): `FPS <- 1` if `F[rs1]` differs from `F[rs2]`, else 0. -/
def execNef (rs1 rs2 : Reg) (s : State) :
    Host.Outcome State Fault Refusal := runAlone (pathNef rs1 rs2) s

/-- The path of `LTF` (R207). -/
def pathLtf (rs1 rs2 : Reg) : Path := .unit (.rel .lt .single) .cc (.single rs1) (.single rs2)

/-- `LTF` (R207): `FPS <- 1` if `F[rs1]` < `F[rs2]`, else 0. -/
def execLtf (rs1 rs2 : Reg) (s : State) :
    Host.Outcome State Fault Refusal := runAlone (pathLtf rs1 rs2) s

/-- The path of `GTF` (R208). -/
def pathGtf (rs1 rs2 : Reg) : Path := .unit (.rel .gt .single) .cc (.single rs1) (.single rs2)

/-- `GTF` (R208): `FPS <- 1` if `F[rs1]` > `F[rs2]`, else 0. -/
def execGtf (rs1 rs2 : Reg) (s : State) :
    Host.Outcome State Fault Refusal := runAlone (pathGtf rs1 rs2) s

/-- The path of `LEF` (R209). -/
def pathLef (rs1 rs2 : Reg) : Path := .unit (.rel .le .single) .cc (.single rs1) (.single rs2)

/-- `LEF` (R209): `FPS <- 1` if `F[rs1]` <= `F[rs2]`, else 0. -/
def execLef (rs1 rs2 : Reg) (s : State) :
    Host.Outcome State Fault Refusal := runAlone (pathLef rs1 rs2) s

/-- The path of `GEF` (R210). -/
def pathGef (rs1 rs2 : Reg) : Path := .unit (.rel .ge .single) .cc (.single rs1) (.single rs2)

/-- `GEF` (R210): `FPS <- 1` if `F[rs1]` >= `F[rs2]`, else 0. -/
def execGef (rs1 rs2 : Reg) (s : State) :
    Host.Outcome State Fault Refusal := runAlone (pathGef rs1 rs2) s

/-- The path of `EQD` (R211). -/
def pathEqd (rs1 rs2 : Reg) : Path := onPairs [rs1, rs2] (.unit (.rel .eq .double) .cc (.pair rs1) (.pair rs2))

/-- `EQD` (R211): `FPS <- 1` if `FD[rs1]` equals `FD[rs2]`, else 0. -/
def execEqd (rs1 rs2 : Reg) (s : State) :
    Host.Outcome State Fault Refusal := runAlone (pathEqd rs1 rs2) s

/-- The path of `NED` (R212). -/
def pathNed (rs1 rs2 : Reg) : Path := onPairs [rs1, rs2] (.unit (.rel .ne .double) .cc (.pair rs1) (.pair rs2))

/-- `NED` (R212): `FPS <- 1` if `FD[rs1]` differs from `FD[rs2]`, else 0. -/
def execNed (rs1 rs2 : Reg) (s : State) :
    Host.Outcome State Fault Refusal := runAlone (pathNed rs1 rs2) s

/-- The path of `LTD` (R213). -/
def pathLtd (rs1 rs2 : Reg) : Path := onPairs [rs1, rs2] (.unit (.rel .lt .double) .cc (.pair rs1) (.pair rs2))

/-- `LTD` (R213): `FPS <- 1` if `FD[rs1]` < `FD[rs2]`, else 0. -/
def execLtd (rs1 rs2 : Reg) (s : State) :
    Host.Outcome State Fault Refusal := runAlone (pathLtd rs1 rs2) s

/-- The path of `GTD` (R214). -/
def pathGtd (rs1 rs2 : Reg) : Path := onPairs [rs1, rs2] (.unit (.rel .gt .double) .cc (.pair rs1) (.pair rs2))

/-- `GTD` (R214): `FPS <- 1` if `FD[rs1]` > `FD[rs2]`, else 0. -/
def execGtd (rs1 rs2 : Reg) (s : State) :
    Host.Outcome State Fault Refusal := runAlone (pathGtd rs1 rs2) s

/-- The path of `LED` (R215). -/
def pathLed (rs1 rs2 : Reg) : Path := onPairs [rs1, rs2] (.unit (.rel .le .double) .cc (.pair rs1) (.pair rs2))

/-- `LED` (R215): `FPS <- 1` if `FD[rs1]` <= `FD[rs2]`, else 0. -/
def execLed (rs1 rs2 : Reg) (s : State) :
    Host.Outcome State Fault Refusal := runAlone (pathLed rs1 rs2) s

/-- The path of `GED` (R216). -/
def pathGed (rs1 rs2 : Reg) : Path := onPairs [rs1, rs2] (.unit (.rel .ge .double) .cc (.pair rs1) (.pair rs2))

/-- `GED` (R216): `FPS <- 1` if `FD[rs1]` >= `FD[rs2]`, else 0. -/
def execGed (rs1 rs2 : Reg) (s : State) :
    Host.Outcome State Fault Refusal := runAlone (pathGed rs1 rs2) s

end Sys2Proof.Machine
end

