-- ==== Sys2Proof/Machine/IntegerAlu.lean ====
section
/-! DEFINITION. The integer arithmetic, logical, shift and set instructions (40_integer_alu.md): the
sixteen register forms and the seventeen immediate forms. Each reads its sources before it writes `R[rd]`; none
raises anything (R130). -/

namespace Sys2Proof.Machine

/-- The path of `ADD` (R131). -/
def pathAdd (rd rs1 rs2 : Reg) : Path := .unit (.int .add) (.r rd) (.reg rs1) (.reg rs2)

/-- `ADD` (R131): `R[rd] <- u32(R[rs1] + R[rs2])`; wraps, nothing raised. -/
def execAdd (rd rs1 rs2 : Reg) (s : State) :
    Host.Outcome State Fault Refusal := runAlone (pathAdd rd rs1 rs2) s

/-- The path of `ADDU` (R132). -/
def pathAddu (rd rs1 rs2 : Reg) : Path := .unit (.int .add) (.r rd) (.reg rs1) (.reg rs2)

/-- `ADDU` (R132): `R[rd] <- u32(R[rs1] + R[rs2])`. -/
def execAddu (rd rs1 rs2 : Reg) (s : State) :
    Host.Outcome State Fault Refusal := runAlone (pathAddu rd rs1 rs2) s

/-- The path of `SUB` (R133). -/
def pathSub (rd rs1 rs2 : Reg) : Path := .unit (.int .sub) (.r rd) (.reg rs1) (.reg rs2)

/-- `SUB` (R133): `R[rd] <- u32(R[rs1] - R[rs2])`. -/
def execSub (rd rs1 rs2 : Reg) (s : State) :
    Host.Outcome State Fault Refusal := runAlone (pathSub rd rs1 rs2) s

/-- The path of `SUBU` (R134). -/
def pathSubu (rd rs1 rs2 : Reg) : Path := .unit (.int .sub) (.r rd) (.reg rs1) (.reg rs2)

/-- `SUBU` (R134): `R[rd] <- u32(R[rs1] - R[rs2])`. -/
def execSubu (rd rs1 rs2 : Reg) (s : State) :
    Host.Outcome State Fault Refusal := runAlone (pathSubu rd rs1 rs2) s

/-- The path of `AND` (R135). -/
def pathAnd (rd rs1 rs2 : Reg) : Path := .unit (.int .and) (.r rd) (.reg rs1) (.reg rs2)

/-- `AND` (R135): `R[rd] <- R[rs1] & R[rs2]`. -/
def execAnd (rd rs1 rs2 : Reg) (s : State) :
    Host.Outcome State Fault Refusal := runAlone (pathAnd rd rs1 rs2) s

/-- The path of `OR` (R136). -/
def pathOr (rd rs1 rs2 : Reg) : Path := .unit (.int .or) (.r rd) (.reg rs1) (.reg rs2)

/-- `OR` (R136): `R[rd] <- R[rs1] | R[rs2]`. -/
def execOr (rd rs1 rs2 : Reg) (s : State) :
    Host.Outcome State Fault Refusal := runAlone (pathOr rd rs1 rs2) s

/-- The path of `XOR` (R137). -/
def pathXor (rd rs1 rs2 : Reg) : Path := .unit (.int .xor) (.r rd) (.reg rs1) (.reg rs2)

/-- `XOR` (R137): `R[rd] <- R[rs1] ^ R[rs2]`. -/
def execXor (rd rs1 rs2 : Reg) (s : State) :
    Host.Outcome State Fault Refusal := runAlone (pathXor rd rs1 rs2) s

/-- The path of `SLL` (R138). -/
def pathSll (rd rs1 rs2 : Reg) : Path := .unit (.int .sll) (.r rd) (.reg rs1) (.reg rs2)

/-- `SLL` (R138): shift left by `R[rs2][4:0]`, zeros enter. -/
def execSll (rd rs1 rs2 : Reg) (s : State) :
    Host.Outcome State Fault Refusal := runAlone (pathSll rd rs1 rs2) s

/-- The path of `SRL` (R139). -/
def pathSrl (rd rs1 rs2 : Reg) : Path := .unit (.int .srl) (.r rd) (.reg rs1) (.reg rs2)

/-- `SRL` (R139): shift right by `R[rs2][4:0]`, zeros enter. -/
def execSrl (rd rs1 rs2 : Reg) (s : State) :
    Host.Outcome State Fault Refusal := runAlone (pathSrl rd rs1 rs2) s

/-- The path of `SRA` (R140). -/
def pathSra (rd rs1 rs2 : Reg) : Path := .unit (.int .sra) (.r rd) (.reg rs1) (.reg rs2)

/-- `SRA` (R140): shift right by `R[rs2][4:0]`, copies of bit 31 enter. -/
def execSra (rd rs1 rs2 : Reg) (s : State) :
    Host.Outcome State Fault Refusal := runAlone (pathSra rd rs1 rs2) s

/-- The path of `SEQ` (R141). -/
def pathSeq (rd rs1 rs2 : Reg) : Path := .unit (.int .seq) (.r rd) (.reg rs1) (.reg rs2)

/-- `SEQ` (R141): 1 if equal, else 0. -/
def execSeq (rd rs1 rs2 : Reg) (s : State) :
    Host.Outcome State Fault Refusal := runAlone (pathSeq rd rs1 rs2) s

/-- The path of `SNE` (R142). -/
def pathSne (rd rs1 rs2 : Reg) : Path := .unit (.int .sne) (.r rd) (.reg rs1) (.reg rs2)

/-- `SNE` (R142): 1 if different, else 0. -/
def execSne (rd rs1 rs2 : Reg) (s : State) :
    Host.Outcome State Fault Refusal := runAlone (pathSne rd rs1 rs2) s

/-- The path of `SLT` (R143). -/
def pathSlt (rd rs1 rs2 : Reg) : Path := .unit (.int .slt) (.r rd) (.reg rs1) (.reg rs2)

/-- `SLT` (R143): 1 if less, signed, else 0. -/
def execSlt (rd rs1 rs2 : Reg) (s : State) :
    Host.Outcome State Fault Refusal := runAlone (pathSlt rd rs1 rs2) s

/-- The path of `SGT` (R144). -/
def pathSgt (rd rs1 rs2 : Reg) : Path := .unit (.int .sgt) (.r rd) (.reg rs1) (.reg rs2)

/-- `SGT` (R144): 1 if greater, signed, else 0. -/
def execSgt (rd rs1 rs2 : Reg) (s : State) :
    Host.Outcome State Fault Refusal := runAlone (pathSgt rd rs1 rs2) s

/-- The path of `SLE` (R145). -/
def pathSle (rd rs1 rs2 : Reg) : Path := .unit (.int .sle) (.r rd) (.reg rs1) (.reg rs2)

/-- `SLE` (R145): 1 if less or equal, signed, else 0. -/
def execSle (rd rs1 rs2 : Reg) (s : State) :
    Host.Outcome State Fault Refusal := runAlone (pathSle rd rs1 rs2) s

/-- The path of `SGE` (R146). -/
def pathSge (rd rs1 rs2 : Reg) : Path := .unit (.int .sge) (.r rd) (.reg rs1) (.reg rs2)

/-- `SGE` (R146): 1 if greater or equal, signed, else 0. -/
def execSge (rd rs1 rs2 : Reg) (s : State) :
    Host.Outcome State Fault Refusal := runAlone (pathSge rd rs1 rs2) s

/-- The path of `ADDI` (R150). -/
def pathAddi (rd rs1 : Reg) (imm : BitVec 16) : Path := .unit (.int .add) (.r rd) (.reg rs1) (.const (sext16 imm))

/-- `ADDI` (R150): `R[rd] <- u32(R[rs1] + sext_16(imm))`. -/
def execAddi (rd rs1 : Reg) (imm : BitVec 16) (s : State) :
    Host.Outcome State Fault Refusal := runAlone (pathAddi rd rs1 imm) s

/-- The path of `ADDUI` (R151). -/
def pathAddui (rd rs1 : Reg) (imm : BitVec 16) : Path := .unit (.int .add) (.r rd) (.reg rs1) (.const (zext16 imm))

/-- `ADDUI` (R151): `R[rd] <- u32(R[rs1] + zext_16(imm))`. -/
def execAddui (rd rs1 : Reg) (imm : BitVec 16) (s : State) :
    Host.Outcome State Fault Refusal := runAlone (pathAddui rd rs1 imm) s

/-- The path of `SUBI` (R152). -/
def pathSubi (rd rs1 : Reg) (imm : BitVec 16) : Path := .unit (.int .sub) (.r rd) (.reg rs1) (.const (sext16 imm))

/-- `SUBI` (R152): `R[rd] <- u32(R[rs1] - sext_16(imm))`. -/
def execSubi (rd rs1 : Reg) (imm : BitVec 16) (s : State) :
    Host.Outcome State Fault Refusal := runAlone (pathSubi rd rs1 imm) s

/-- The path of `SUBUI` (R153). -/
def pathSubui (rd rs1 : Reg) (imm : BitVec 16) : Path := .unit (.int .sub) (.r rd) (.reg rs1) (.const (zext16 imm))

/-- `SUBUI` (R153): `R[rd] <- u32(R[rs1] - zext_16(imm))`. -/
def execSubui (rd rs1 : Reg) (imm : BitVec 16) (s : State) :
    Host.Outcome State Fault Refusal := runAlone (pathSubui rd rs1 imm) s

/-- The path of `ANDI` (R154). -/
def pathAndi (rd rs1 : Reg) (imm : BitVec 16) : Path := .unit (.int .and) (.r rd) (.reg rs1) (.const (zext16 imm))

/-- `ANDI` (R154): `R[rd] <- R[rs1] & zext_16(imm)`. -/
def execAndi (rd rs1 : Reg) (imm : BitVec 16) (s : State) :
    Host.Outcome State Fault Refusal := runAlone (pathAndi rd rs1 imm) s

/-- The path of `ORI` (R155). -/
def pathOri (rd rs1 : Reg) (imm : BitVec 16) : Path := .unit (.int .or) (.r rd) (.reg rs1) (.const (zext16 imm))

/-- `ORI` (R155): `R[rd] <- R[rs1] | zext_16(imm)`. -/
def execOri (rd rs1 : Reg) (imm : BitVec 16) (s : State) :
    Host.Outcome State Fault Refusal := runAlone (pathOri rd rs1 imm) s

/-- The path of `XORI` (R156). -/
def pathXori (rd rs1 : Reg) (imm : BitVec 16) : Path := .unit (.int .xor) (.r rd) (.reg rs1) (.const (zext16 imm))

/-- `XORI` (R156): `R[rd] <- R[rs1] ^ zext_16(imm)`. -/
def execXori (rd rs1 : Reg) (imm : BitVec 16) (s : State) :
    Host.Outcome State Fault Refusal := runAlone (pathXori rd rs1 imm) s

/-- The path of `LHI` (R157). -/
def pathLhi (rd : Reg) (imm : BitVec 16) : Path := .unit (.int .sll) (.r rd) (.const (zext16 imm)) (.const 16)

/-- `LHI` (R157): `R[rd] <- imm ++ 0x0000`, dispatched as a shift left of `zext_16(imm)` by 16; reads no register. -/
def execLhi (rd : Reg) (imm : BitVec 16) (s : State) :
    Host.Outcome State Fault Refusal := runAlone (pathLhi rd imm) s

/-- The path of `SLLI` (R158). -/
def pathSlli (rd rs1 : Reg) (imm : BitVec 16) : Path := .unit (.int .sll) (.r rd) (.reg rs1) (.const (zext16 imm))

/-- `SLLI` (R158): shift left by `imm[4:0]`. -/
def execSlli (rd rs1 : Reg) (imm : BitVec 16) (s : State) :
    Host.Outcome State Fault Refusal := runAlone (pathSlli rd rs1 imm) s

/-- The path of `SRLI` (R159). -/
def pathSrli (rd rs1 : Reg) (imm : BitVec 16) : Path := .unit (.int .srl) (.r rd) (.reg rs1) (.const (zext16 imm))

/-- `SRLI` (R159): shift right by `imm[4:0]`, zeros enter. -/
def execSrli (rd rs1 : Reg) (imm : BitVec 16) (s : State) :
    Host.Outcome State Fault Refusal := runAlone (pathSrli rd rs1 imm) s

/-- The path of `SRAI` (R160). -/
def pathSrai (rd rs1 : Reg) (imm : BitVec 16) : Path := .unit (.int .sra) (.r rd) (.reg rs1) (.const (zext16 imm))

/-- `SRAI` (R160): shift right by `imm[4:0]`, copies of bit 31 enter. -/
def execSrai (rd rs1 : Reg) (imm : BitVec 16) (s : State) :
    Host.Outcome State Fault Refusal := runAlone (pathSrai rd rs1 imm) s

/-- The path of `SEQI` (R161). -/
def pathSeqi (rd rs1 : Reg) (imm : BitVec 16) : Path := .unit (.int .seq) (.r rd) (.reg rs1) (.const (sext16 imm))

/-- `SEQI` (R161): 1 if `R[rs1] = sext_16(imm)`, else 0. -/
def execSeqi (rd rs1 : Reg) (imm : BitVec 16) (s : State) :
    Host.Outcome State Fault Refusal := runAlone (pathSeqi rd rs1 imm) s

/-- The path of `SNEI` (R162). -/
def pathSnei (rd rs1 : Reg) (imm : BitVec 16) : Path := .unit (.int .sne) (.r rd) (.reg rs1) (.const (sext16 imm))

/-- `SNEI` (R162): 1 if `R[rs1] != sext_16(imm)`, else 0. -/
def execSnei (rd rs1 : Reg) (imm : BitVec 16) (s : State) :
    Host.Outcome State Fault Refusal := runAlone (pathSnei rd rs1 imm) s

/-- The path of `SLTI` (R163). -/
def pathSlti (rd rs1 : Reg) (imm : BitVec 16) : Path := .unit (.int .slt) (.r rd) (.reg rs1) (.const (sext16 imm))

/-- `SLTI` (R163): 1 if less than `sext_16(imm)`, signed, else 0. -/
def execSlti (rd rs1 : Reg) (imm : BitVec 16) (s : State) :
    Host.Outcome State Fault Refusal := runAlone (pathSlti rd rs1 imm) s

/-- The path of `SGTI` (R164). -/
def pathSgti (rd rs1 : Reg) (imm : BitVec 16) : Path := .unit (.int .sgt) (.r rd) (.reg rs1) (.const (sext16 imm))

/-- `SGTI` (R164): 1 if greater than `sext_16(imm)`, signed, else 0. -/
def execSgti (rd rs1 : Reg) (imm : BitVec 16) (s : State) :
    Host.Outcome State Fault Refusal := runAlone (pathSgti rd rs1 imm) s

/-- The path of `SLEI` (R165). -/
def pathSlei (rd rs1 : Reg) (imm : BitVec 16) : Path := .unit (.int .sle) (.r rd) (.reg rs1) (.const (sext16 imm))

/-- `SLEI` (R165): 1 if at most `sext_16(imm)`, signed, else 0. -/
def execSlei (rd rs1 : Reg) (imm : BitVec 16) (s : State) :
    Host.Outcome State Fault Refusal := runAlone (pathSlei rd rs1 imm) s

/-- The path of `SGEI` (R166). -/
def pathSgei (rd rs1 : Reg) (imm : BitVec 16) : Path := .unit (.int .sge) (.r rd) (.reg rs1) (.const (sext16 imm))

/-- `SGEI` (R166): 1 if at least `sext_16(imm)`, signed, else 0. -/
def execSgei (rd rs1 : Reg) (imm : BitVec 16) (s : State) :
    Host.Outcome State Fault Refusal := runAlone (pathSgei rd rs1 imm) s

end Sys2Proof.Machine
end

