-- ==== Sys2Proof/Machine/LoadStore.lean ====
section
/-! DEFINITION. The loads and stores (42_load_store.md). The effective address is `u32(R[rs1] + sext_16(imm))`
(R221); the only fault is the range check (R224). -/

namespace Sys2Proof.Machine

/-- The path of `LB` (R225). -/
def pathLb (rd rs1 : Reg) (imm : BitVec 16) : Path := .load (.r rd) rs1 imm .byte true

/-- `LB` (R225): `R[rd] <- sext_8(MemRead(ea, 1))`. -/
def execLb (rd rs1 : Reg) (imm : BitVec 16) (s : State) :
    Host.Outcome State Fault Refusal := runAlone (pathLb rd rs1 imm) s

/-- The path of `LBU` (R226). -/
def pathLbu (rd rs1 : Reg) (imm : BitVec 16) : Path := .load (.r rd) rs1 imm .byte false

/-- `LBU` (R226): `R[rd] <- zext_8(MemRead(ea, 1))`. -/
def execLbu (rd rs1 : Reg) (imm : BitVec 16) (s : State) :
    Host.Outcome State Fault Refusal := runAlone (pathLbu rd rs1 imm) s

/-- The path of `LH` (R227). -/
def pathLh (rd rs1 : Reg) (imm : BitVec 16) : Path := .load (.r rd) rs1 imm .half true

/-- `LH` (R227): `R[rd] <- sext_16(MemRead(ea, 2))`. -/
def execLh (rd rs1 : Reg) (imm : BitVec 16) (s : State) :
    Host.Outcome State Fault Refusal := runAlone (pathLh rd rs1 imm) s

/-- The path of `LHU` (R228). -/
def pathLhu (rd rs1 : Reg) (imm : BitVec 16) : Path := .load (.r rd) rs1 imm .half false

/-- `LHU` (R228): `R[rd] <- zext_16(MemRead(ea, 2))`. -/
def execLhu (rd rs1 : Reg) (imm : BitVec 16) (s : State) :
    Host.Outcome State Fault Refusal := runAlone (pathLhu rd rs1 imm) s

/-- The path of `LW` (R229). -/
def pathLw (rd rs1 : Reg) (imm : BitVec 16) : Path := .load (.r rd) rs1 imm .word false

/-- `LW` (R229): `R[rd] <- MemRead(ea, 4)`. -/
def execLw (rd rs1 : Reg) (imm : BitVec 16) (s : State) :
    Host.Outcome State Fault Refusal := runAlone (pathLw rd rs1 imm) s

/-- The path of `LF` (R230). -/
def pathLf (rd rs1 : Reg) (imm : BitVec 16) : Path := .load (.fs rd) rs1 imm .word false

/-- `LF` (R230): `F[rd] <- MemRead(ea, 4)`, no conversion. -/
def execLf (rd rs1 : Reg) (imm : BitVec 16) (s : State) :
    Host.Outcome State Fault Refusal := runAlone (pathLf rd rs1 imm) s

/-- The path of `LD` (R231). -/
def pathLd (rd rs1 : Reg) (imm : BitVec 16) : Path := onPairs [rd] (.load (.fd rd) rs1 imm .double false)

/-- `LD` (R231): `FD[rd] <- MemRead(ea, 8)`. -/
def execLd (rd rs1 : Reg) (imm : BitVec 16) (s : State) :
    Host.Outcome State Fault Refusal := runAlone (pathLd rd rs1 imm) s

/-- The path of `SB` (R235). -/
def pathSb (rd rs1 : Reg) (imm : BitVec 16) : Path := .store rs1 imm .byte (.reg rd)

/-- `SB` (R235): `MemWrite(ea, 1, R[rd][7:0])`. -/
def execSb (rd rs1 : Reg) (imm : BitVec 16) (s : State) :
    Host.Outcome State Fault Refusal := runAlone (pathSb rd rs1 imm) s

/-- The path of `SH` (R236). -/
def pathSh (rd rs1 : Reg) (imm : BitVec 16) : Path := .store rs1 imm .half (.reg rd)

/-- `SH` (R236): `MemWrite(ea, 2, R[rd][15:0])`. -/
def execSh (rd rs1 : Reg) (imm : BitVec 16) (s : State) :
    Host.Outcome State Fault Refusal := runAlone (pathSh rd rs1 imm) s

/-- The path of `SW` (R237). -/
def pathSw (rd rs1 : Reg) (imm : BitVec 16) : Path := .store rs1 imm .word (.reg rd)

/-- `SW` (R237): `MemWrite(ea, 4, R[rd])`. -/
def execSw (rd rs1 : Reg) (imm : BitVec 16) (s : State) :
    Host.Outcome State Fault Refusal := runAlone (pathSw rd rs1 imm) s

/-- The path of `SF` (R238). -/
def pathSf (rd rs1 : Reg) (imm : BitVec 16) : Path := .store rs1 imm .word (.single rd)

/-- `SF` (R238): `MemWrite(ea, 4, F[rd])`, no conversion. -/
def execSf (rd rs1 : Reg) (imm : BitVec 16) (s : State) :
    Host.Outcome State Fault Refusal := runAlone (pathSf rd rs1 imm) s

/-- The path of `SD` (R239). -/
def pathSd (rd rs1 : Reg) (imm : BitVec 16) : Path := onPairs [rd] (.store rs1 imm .double (.pair rd))

/-- `SD` (R239): `MemWrite(ea, 8, FD[rd])`. -/
def execSd (rd rs1 : Reg) (imm : BitVec 16) (s : State) :
    Host.Outcome State Fault Refusal := runAlone (pathSd rd rs1 imm) s

end Sys2Proof.Machine
end

