-- ==== Sys2Proof/Machine/System.lean ====
section
/-! DEFINITION. `NOP`, `TRAP` and the instructions that are decoded and do nothing (30_encoding.md R103,
44_system_unimplemented.md). -/

namespace Sys2Proof.Machine

/-- The path of `NOP` (R103). -/
def pathNop : Path := .pass

/-- `NOP` (R103): nothing. -/
def execNop (s : State) :
    Host.Outcome State Fault Refusal := runAlone (pathNop) s

/-- The path of `TRAP` (R270). -/
def pathTrap : Path := .trap

/-- `TRAP` (R270): `halt`; the trap number is ignored, `PC` and every register stay (log 15). -/
def execTrap (s : State) :
    Host.Outcome State Fault Refusal := runAlone (pathTrap) s

/-- The path of `RFE` (R273). -/
def pathRfe : Path := .pass

/-- `RFE` (R273): accepted by decode, no state change; the next instruction is the one at `pc + 4`. -/
def execRfe (s : State) :
    Host.Outcome State Fault Refusal := runAlone (pathRfe) s

/-- The path of `JR` (R274). -/
def pathJr : Path := .pass

/-- `JR` (R274): accepted by decode, no state change; the next instruction is the one at `pc + 4`. -/
def execJr (s : State) :
    Host.Outcome State Fault Refusal := runAlone (pathJr) s

/-- The path of `JALR` (R275). -/
def pathJalr : Path := .pass

/-- `JALR` (R275): accepted by decode, no state change; the next instruction is the one at `pc + 4`. -/
def execJalr (s : State) :
    Host.Outcome State Fault Refusal := runAlone (pathJalr) s

/-- The path of `MOVI2S` (R276). -/
def pathMovi2s : Path := .pass

/-- `MOVI2S` (R276): accepted by decode, no state change; the next instruction is the one at `pc + 4`. -/
def execMovi2s (s : State) :
    Host.Outcome State Fault Refusal := runAlone (pathMovi2s) s

/-- The path of `MOVS2I` (R276). -/
def pathMovs2i : Path := .pass

/-- `MOVS2I` (R276): accepted by decode, no state change; the next instruction is the one at `pc + 4`. -/
def execMovs2i (s : State) :
    Host.Outcome State Fault Refusal := runAlone (pathMovs2i) s

/-- The path of `SEQU` (R277). -/
def pathSequ : Path := .pass

/-- `SEQU` (R277): accepted by decode, no state change; the next instruction is the one at `pc + 4`. -/
def execSequ (s : State) :
    Host.Outcome State Fault Refusal := runAlone (pathSequ) s

/-- The path of `SNEU` (R277). -/
def pathSneu : Path := .pass

/-- `SNEU` (R277): accepted by decode, no state change; the next instruction is the one at `pc + 4`. -/
def execSneu (s : State) :
    Host.Outcome State Fault Refusal := runAlone (pathSneu) s

/-- The path of `SLTU` (R277). -/
def pathSltu : Path := .pass

/-- `SLTU` (R277): accepted by decode, no state change; the next instruction is the one at `pc + 4`. -/
def execSltu (s : State) :
    Host.Outcome State Fault Refusal := runAlone (pathSltu) s

/-- The path of `SGTU` (R277). -/
def pathSgtu : Path := .pass

/-- `SGTU` (R277): accepted by decode, no state change; the next instruction is the one at `pc + 4`. -/
def execSgtu (s : State) :
    Host.Outcome State Fault Refusal := runAlone (pathSgtu) s

/-- The path of `SLEU` (R277). -/
def pathSleu : Path := .pass

/-- `SLEU` (R277): accepted by decode, no state change; the next instruction is the one at `pc + 4`. -/
def execSleu (s : State) :
    Host.Outcome State Fault Refusal := runAlone (pathSleu) s

/-- The path of `SGEU` (R277). -/
def pathSgeu : Path := .pass

/-- `SGEU` (R277): accepted by decode, no state change; the next instruction is the one at `pc + 4`. -/
def execSgeu (s : State) :
    Host.Outcome State Fault Refusal := runAlone (pathSgeu) s

/-- The path of `SEQUI` (R277). -/
def pathSequi : Path := .pass

/-- `SEQUI` (R277): accepted by decode, no state change; the next instruction is the one at `pc + 4`. -/
def execSequi (s : State) :
    Host.Outcome State Fault Refusal := runAlone (pathSequi) s

/-- The path of `SNEUI` (R277). -/
def pathSneui : Path := .pass

/-- `SNEUI` (R277): accepted by decode, no state change; the next instruction is the one at `pc + 4`. -/
def execSneui (s : State) :
    Host.Outcome State Fault Refusal := runAlone (pathSneui) s

/-- The path of `SLTUI` (R277). -/
def pathSltui : Path := .pass

/-- `SLTUI` (R277): accepted by decode, no state change; the next instruction is the one at `pc + 4`. -/
def execSltui (s : State) :
    Host.Outcome State Fault Refusal := runAlone (pathSltui) s

/-- The path of `SGTUI` (R277). -/
def pathSgtui : Path := .pass

/-- `SGTUI` (R277): accepted by decode, no state change; the next instruction is the one at `pc + 4`. -/
def execSgtui (s : State) :
    Host.Outcome State Fault Refusal := runAlone (pathSgtui) s

/-- The path of `SLEUI` (R277). -/
def pathSleui : Path := .pass

/-- `SLEUI` (R277): accepted by decode, no state change; the next instruction is the one at `pc + 4`. -/
def execSleui (s : State) :
    Host.Outcome State Fault Refusal := runAlone (pathSleui) s

/-- The path of `SGEUI` (R277). -/
def pathSgeui : Path := .pass

/-- `SGEUI` (R277): accepted by decode, no state change; the next instruction is the one at `pc + 4`. -/
def execSgeui (s : State) :
    Host.Outcome State Fault Refusal := runAlone (pathSgeui) s

/-- The path of `MOVF` (R278). -/
def pathMovf : Path := .pass

/-- `MOVF` (R278): accepted by decode, no state change; the next instruction is the one at `pc + 4`. -/
def execMovf (s : State) :
    Host.Outcome State Fault Refusal := runAlone (pathMovf) s

/-- The path of `MOVD` (R278). -/
def pathMovd : Path := .pass

/-- `MOVD` (R278): accepted by decode, no state change; the next instruction is the one at `pc + 4`. -/
def execMovd (s : State) :
    Host.Outcome State Fault Refusal := runAlone (pathMovd) s

/-- The path of `MOVFP2I` (R278). -/
def pathMovfp2i : Path := .pass

/-- `MOVFP2I` (R278): accepted by decode, no state change; the next instruction is the one at `pc + 4`. -/
def execMovfp2i (s : State) :
    Host.Outcome State Fault Refusal := runAlone (pathMovfp2i) s

/-- The path of `MOVI2FP` (R278). -/
def pathMovi2fp : Path := .pass

/-- `MOVI2FP` (R278): accepted by decode, no state change; the next instruction is the one at `pc + 4`. -/
def execMovi2fp (s : State) :
    Host.Outcome State Fault Refusal := runAlone (pathMovi2fp) s

/-- The path of `CVTF2D` (R279). -/
def pathCvtf2d : Path := .pass

/-- `CVTF2D` (R279): accepted by decode, no state change; the next instruction is the one at `pc + 4`. -/
def execCvtf2d (s : State) :
    Host.Outcome State Fault Refusal := runAlone (pathCvtf2d) s

/-- The path of `CVTF2I` (R279). -/
def pathCvtf2i : Path := .pass

/-- `CVTF2I` (R279): accepted by decode, no state change; the next instruction is the one at `pc + 4`. -/
def execCvtf2i (s : State) :
    Host.Outcome State Fault Refusal := runAlone (pathCvtf2i) s

/-- The path of `CVTD2F` (R279). -/
def pathCvtd2f : Path := .pass

/-- `CVTD2F` (R279): accepted by decode, no state change; the next instruction is the one at `pc + 4`. -/
def execCvtd2f (s : State) :
    Host.Outcome State Fault Refusal := runAlone (pathCvtd2f) s

/-- The path of `CVTD2I` (R279). -/
def pathCvtd2i : Path := .pass

/-- `CVTD2I` (R279): accepted by decode, no state change; the next instruction is the one at `pc + 4`. -/
def execCvtd2i (s : State) :
    Host.Outcome State Fault Refusal := runAlone (pathCvtd2i) s

/-- The path of `CVTI2F` (R279). -/
def pathCvti2f : Path := .pass

/-- `CVTI2F` (R279): accepted by decode, no state change; the next instruction is the one at `pc + 4`. -/
def execCvti2f (s : State) :
    Host.Outcome State Fault Refusal := runAlone (pathCvti2f) s

/-- The path of `CVTI2D` (R279). -/
def pathCvti2d : Path := .pass

/-- `CVTI2D` (R279): accepted by decode, no state change; the next instruction is the one at `pc + 4`. -/
def execCvti2d (s : State) :
    Host.Outcome State Fault Refusal := runAlone (pathCvti2d) s

/-- The path of `MULTU` (R280). -/
def pathMultu : Path := .pass

/-- `MULTU` (R280): accepted by decode, no state change; the next instruction is the one at `pc + 4`. -/
def execMultu (s : State) :
    Host.Outcome State Fault Refusal := runAlone (pathMultu) s

/-- The path of `DIVU` (R280). -/
def pathDivu : Path := .pass

/-- `DIVU` (R280): accepted by decode, no state change; the next instruction is the one at `pc + 4`. -/
def execDivu (s : State) :
    Host.Outcome State Fault Refusal := runAlone (pathDivu) s

end Sys2Proof.Machine
end

