-- ==== Sys2Proof/Machine/Dispatch.lean ====
section
/-! DEFINITION. The meaning of every instruction, one arm for each constructor: its architectural effect (R13). -/

namespace Sys2Proof.Machine

def exec (i : Instr) (s : State) : Host.Outcome State Fault Refusal :=
  match i with
  | .nop => Sys2Proof.Machine.execNop s
  | .add rd rs1 rs2 => Sys2Proof.Machine.execAdd rd rs1 rs2 s
  | .addu rd rs1 rs2 => Sys2Proof.Machine.execAddu rd rs1 rs2 s
  | .sub rd rs1 rs2 => Sys2Proof.Machine.execSub rd rs1 rs2 s
  | .subu rd rs1 rs2 => Sys2Proof.Machine.execSubu rd rs1 rs2 s
  | .and rd rs1 rs2 => Sys2Proof.Machine.execAnd rd rs1 rs2 s
  | .or rd rs1 rs2 => Sys2Proof.Machine.execOr rd rs1 rs2 s
  | .xor rd rs1 rs2 => Sys2Proof.Machine.execXor rd rs1 rs2 s
  | .sll rd rs1 rs2 => Sys2Proof.Machine.execSll rd rs1 rs2 s
  | .srl rd rs1 rs2 => Sys2Proof.Machine.execSrl rd rs1 rs2 s
  | .sra rd rs1 rs2 => Sys2Proof.Machine.execSra rd rs1 rs2 s
  | .seq rd rs1 rs2 => Sys2Proof.Machine.execSeq rd rs1 rs2 s
  | .sne rd rs1 rs2 => Sys2Proof.Machine.execSne rd rs1 rs2 s
  | .slt rd rs1 rs2 => Sys2Proof.Machine.execSlt rd rs1 rs2 s
  | .sgt rd rs1 rs2 => Sys2Proof.Machine.execSgt rd rs1 rs2 s
  | .sle rd rs1 rs2 => Sys2Proof.Machine.execSle rd rs1 rs2 s
  | .sge rd rs1 rs2 => Sys2Proof.Machine.execSge rd rs1 rs2 s
  | .addi rd rs1 imm => Sys2Proof.Machine.execAddi rd rs1 imm s
  | .addui rd rs1 imm => Sys2Proof.Machine.execAddui rd rs1 imm s
  | .subi rd rs1 imm => Sys2Proof.Machine.execSubi rd rs1 imm s
  | .subui rd rs1 imm => Sys2Proof.Machine.execSubui rd rs1 imm s
  | .andi rd rs1 imm => Sys2Proof.Machine.execAndi rd rs1 imm s
  | .ori rd rs1 imm => Sys2Proof.Machine.execOri rd rs1 imm s
  | .xori rd rs1 imm => Sys2Proof.Machine.execXori rd rs1 imm s
  | .lhi rd imm => Sys2Proof.Machine.execLhi rd imm s
  | .slli rd rs1 imm => Sys2Proof.Machine.execSlli rd rs1 imm s
  | .srli rd rs1 imm => Sys2Proof.Machine.execSrli rd rs1 imm s
  | .srai rd rs1 imm => Sys2Proof.Machine.execSrai rd rs1 imm s
  | .seqi rd rs1 imm => Sys2Proof.Machine.execSeqi rd rs1 imm s
  | .snei rd rs1 imm => Sys2Proof.Machine.execSnei rd rs1 imm s
  | .slti rd rs1 imm => Sys2Proof.Machine.execSlti rd rs1 imm s
  | .sgti rd rs1 imm => Sys2Proof.Machine.execSgti rd rs1 imm s
  | .slei rd rs1 imm => Sys2Proof.Machine.execSlei rd rs1 imm s
  | .sgei rd rs1 imm => Sys2Proof.Machine.execSgei rd rs1 imm s
  | .addf rd rs1 rs2 => Sys2Proof.Machine.execAddf rd rs1 rs2 s
  | .subf rd rs1 rs2 => Sys2Proof.Machine.execSubf rd rs1 rs2 s
  | .multf rd rs1 rs2 => Sys2Proof.Machine.execMultf rd rs1 rs2 s
  | .divf rd rs1 rs2 => Sys2Proof.Machine.execDivf rd rs1 rs2 s
  | .addd rd rs1 rs2 => Sys2Proof.Machine.execAddd rd rs1 rs2 s
  | .subd rd rs1 rs2 => Sys2Proof.Machine.execSubd rd rs1 rs2 s
  | .multd rd rs1 rs2 => Sys2Proof.Machine.execMultd rd rs1 rs2 s
  | .divd rd rs1 rs2 => Sys2Proof.Machine.execDivd rd rs1 rs2 s
  | .mult rd rs1 rs2 => Sys2Proof.Machine.execMult rd rs1 rs2 s
  | .div rd rs1 rs2 => Sys2Proof.Machine.execDiv rd rs1 rs2 s
  | .eqf rs1 rs2 => Sys2Proof.Machine.execEqf rs1 rs2 s
  | .nef rs1 rs2 => Sys2Proof.Machine.execNef rs1 rs2 s
  | .ltf rs1 rs2 => Sys2Proof.Machine.execLtf rs1 rs2 s
  | .gtf rs1 rs2 => Sys2Proof.Machine.execGtf rs1 rs2 s
  | .lef rs1 rs2 => Sys2Proof.Machine.execLef rs1 rs2 s
  | .gef rs1 rs2 => Sys2Proof.Machine.execGef rs1 rs2 s
  | .eqd rs1 rs2 => Sys2Proof.Machine.execEqd rs1 rs2 s
  | .ned rs1 rs2 => Sys2Proof.Machine.execNed rs1 rs2 s
  | .ltd rs1 rs2 => Sys2Proof.Machine.execLtd rs1 rs2 s
  | .gtd rs1 rs2 => Sys2Proof.Machine.execGtd rs1 rs2 s
  | .led rs1 rs2 => Sys2Proof.Machine.execLed rs1 rs2 s
  | .ged rs1 rs2 => Sys2Proof.Machine.execGed rs1 rs2 s
  | .lb rd rs1 imm => Sys2Proof.Machine.execLb rd rs1 imm s
  | .lbu rd rs1 imm => Sys2Proof.Machine.execLbu rd rs1 imm s
  | .lh rd rs1 imm => Sys2Proof.Machine.execLh rd rs1 imm s
  | .lhu rd rs1 imm => Sys2Proof.Machine.execLhu rd rs1 imm s
  | .lw rd rs1 imm => Sys2Proof.Machine.execLw rd rs1 imm s
  | .lf rd rs1 imm => Sys2Proof.Machine.execLf rd rs1 imm s
  | .ld rd rs1 imm => Sys2Proof.Machine.execLd rd rs1 imm s
  | .sb rd rs1 imm => Sys2Proof.Machine.execSb rd rs1 imm s
  | .sh rd rs1 imm => Sys2Proof.Machine.execSh rd rs1 imm s
  | .sw rd rs1 imm => Sys2Proof.Machine.execSw rd rs1 imm s
  | .sf rd rs1 imm => Sys2Proof.Machine.execSf rd rs1 imm s
  | .sd rd rs1 imm => Sys2Proof.Machine.execSd rd rs1 imm s
  | .beqz rs1 imm => Sys2Proof.Machine.execBeqz rs1 imm s
  | .bnez rs1 imm => Sys2Proof.Machine.execBnez rs1 imm s
  | .bfpt imm => Sys2Proof.Machine.execBfpt imm s
  | .bfpf imm => Sys2Proof.Machine.execBfpf imm s
  | .j offset => Sys2Proof.Machine.execJ offset s
  | .jal offset => Sys2Proof.Machine.execJal offset s
  | .trap => Sys2Proof.Machine.execTrap s
  | .rfe => Sys2Proof.Machine.execRfe s
  | .jr => Sys2Proof.Machine.execJr s
  | .jalr => Sys2Proof.Machine.execJalr s
  | .movi2s => Sys2Proof.Machine.execMovi2s s
  | .movs2i => Sys2Proof.Machine.execMovs2i s
  | .sequ => Sys2Proof.Machine.execSequ s
  | .sneu => Sys2Proof.Machine.execSneu s
  | .sltu => Sys2Proof.Machine.execSltu s
  | .sgtu => Sys2Proof.Machine.execSgtu s
  | .sleu => Sys2Proof.Machine.execSleu s
  | .sgeu => Sys2Proof.Machine.execSgeu s
  | .sequi => Sys2Proof.Machine.execSequi s
  | .sneui => Sys2Proof.Machine.execSneui s
  | .sltui => Sys2Proof.Machine.execSltui s
  | .sgtui => Sys2Proof.Machine.execSgtui s
  | .sleui => Sys2Proof.Machine.execSleui s
  | .sgeui => Sys2Proof.Machine.execSgeui s
  | .movf => Sys2Proof.Machine.execMovf s
  | .movd => Sys2Proof.Machine.execMovd s
  | .movfp2i => Sys2Proof.Machine.execMovfp2i s
  | .movi2fp => Sys2Proof.Machine.execMovi2fp s
  | .cvtf2d => Sys2Proof.Machine.execCvtf2d s
  | .cvtf2i => Sys2Proof.Machine.execCvtf2i s
  | .cvtd2f => Sys2Proof.Machine.execCvtd2f s
  | .cvtd2i => Sys2Proof.Machine.execCvtd2i s
  | .cvti2f => Sys2Proof.Machine.execCvti2f s
  | .cvti2d => Sys2Proof.Machine.execCvti2d s
  | .multu => Sys2Proof.Machine.execMultu s
  | .divu => Sys2Proof.Machine.execDivu s

end Sys2Proof.Machine
end

