-- ==== Sys2Proof/Machine/Paths.lean ====
section
/-! DEFINITION. The path of every instruction and of every word: what the pipeline follows. -/

namespace Sys2Proof.Machine

/-- The path of an instruction. -/
def pathOf : Instr → Path
  | .nop => pathNop
  | .add rd rs1 rs2 => pathAdd rd rs1 rs2
  | .addu rd rs1 rs2 => pathAddu rd rs1 rs2
  | .sub rd rs1 rs2 => pathSub rd rs1 rs2
  | .subu rd rs1 rs2 => pathSubu rd rs1 rs2
  | .and rd rs1 rs2 => pathAnd rd rs1 rs2
  | .or rd rs1 rs2 => pathOr rd rs1 rs2
  | .xor rd rs1 rs2 => pathXor rd rs1 rs2
  | .sll rd rs1 rs2 => pathSll rd rs1 rs2
  | .srl rd rs1 rs2 => pathSrl rd rs1 rs2
  | .sra rd rs1 rs2 => pathSra rd rs1 rs2
  | .seq rd rs1 rs2 => pathSeq rd rs1 rs2
  | .sne rd rs1 rs2 => pathSne rd rs1 rs2
  | .slt rd rs1 rs2 => pathSlt rd rs1 rs2
  | .sgt rd rs1 rs2 => pathSgt rd rs1 rs2
  | .sle rd rs1 rs2 => pathSle rd rs1 rs2
  | .sge rd rs1 rs2 => pathSge rd rs1 rs2
  | .addi rd rs1 imm => pathAddi rd rs1 imm
  | .addui rd rs1 imm => pathAddui rd rs1 imm
  | .subi rd rs1 imm => pathSubi rd rs1 imm
  | .subui rd rs1 imm => pathSubui rd rs1 imm
  | .andi rd rs1 imm => pathAndi rd rs1 imm
  | .ori rd rs1 imm => pathOri rd rs1 imm
  | .xori rd rs1 imm => pathXori rd rs1 imm
  | .lhi rd imm => pathLhi rd imm
  | .slli rd rs1 imm => pathSlli rd rs1 imm
  | .srli rd rs1 imm => pathSrli rd rs1 imm
  | .srai rd rs1 imm => pathSrai rd rs1 imm
  | .seqi rd rs1 imm => pathSeqi rd rs1 imm
  | .snei rd rs1 imm => pathSnei rd rs1 imm
  | .slti rd rs1 imm => pathSlti rd rs1 imm
  | .sgti rd rs1 imm => pathSgti rd rs1 imm
  | .slei rd rs1 imm => pathSlei rd rs1 imm
  | .sgei rd rs1 imm => pathSgei rd rs1 imm
  | .addf rd rs1 rs2 => pathAddf rd rs1 rs2
  | .subf rd rs1 rs2 => pathSubf rd rs1 rs2
  | .multf rd rs1 rs2 => pathMultf rd rs1 rs2
  | .divf rd rs1 rs2 => pathDivf rd rs1 rs2
  | .addd rd rs1 rs2 => pathAddd rd rs1 rs2
  | .subd rd rs1 rs2 => pathSubd rd rs1 rs2
  | .multd rd rs1 rs2 => pathMultd rd rs1 rs2
  | .divd rd rs1 rs2 => pathDivd rd rs1 rs2
  | .mult rd rs1 rs2 => pathMult rd rs1 rs2
  | .div rd rs1 rs2 => pathDiv rd rs1 rs2
  | .eqf rs1 rs2 => pathEqf rs1 rs2
  | .nef rs1 rs2 => pathNef rs1 rs2
  | .ltf rs1 rs2 => pathLtf rs1 rs2
  | .gtf rs1 rs2 => pathGtf rs1 rs2
  | .lef rs1 rs2 => pathLef rs1 rs2
  | .gef rs1 rs2 => pathGef rs1 rs2
  | .eqd rs1 rs2 => pathEqd rs1 rs2
  | .ned rs1 rs2 => pathNed rs1 rs2
  | .ltd rs1 rs2 => pathLtd rs1 rs2
  | .gtd rs1 rs2 => pathGtd rs1 rs2
  | .led rs1 rs2 => pathLed rs1 rs2
  | .ged rs1 rs2 => pathGed rs1 rs2
  | .lb rd rs1 imm => pathLb rd rs1 imm
  | .lbu rd rs1 imm => pathLbu rd rs1 imm
  | .lh rd rs1 imm => pathLh rd rs1 imm
  | .lhu rd rs1 imm => pathLhu rd rs1 imm
  | .lw rd rs1 imm => pathLw rd rs1 imm
  | .lf rd rs1 imm => pathLf rd rs1 imm
  | .ld rd rs1 imm => pathLd rd rs1 imm
  | .sb rd rs1 imm => pathSb rd rs1 imm
  | .sh rd rs1 imm => pathSh rd rs1 imm
  | .sw rd rs1 imm => pathSw rd rs1 imm
  | .sf rd rs1 imm => pathSf rd rs1 imm
  | .sd rd rs1 imm => pathSd rd rs1 imm
  | .beqz rs1 imm => pathBeqz rs1 imm
  | .bnez rs1 imm => pathBnez rs1 imm
  | .bfpt imm => pathBfpt imm
  | .bfpf imm => pathBfpf imm
  | .j offset => pathJ offset
  | .jal offset => pathJal offset
  | .trap => pathTrap
  | .rfe => pathRfe
  | .jr => pathJr
  | .jalr => pathJalr
  | .movi2s => pathMovi2s
  | .movs2i => pathMovs2i
  | .sequ => pathSequ
  | .sneu => pathSneu
  | .sltu => pathSltu
  | .sgtu => pathSgtu
  | .sleu => pathSleu
  | .sgeu => pathSgeu
  | .sequi => pathSequi
  | .sneui => pathSneui
  | .sltui => pathSltui
  | .sgtui => pathSgtui
  | .sleui => pathSleui
  | .sgeui => pathSgeui
  | .movf => pathMovf
  | .movd => pathMovd
  | .movfp2i => pathMovfp2i
  | .movi2fp => pathMovi2fp
  | .cvtf2d => pathCvtf2d
  | .cvtf2i => pathCvtf2i
  | .cvtd2f => pathCvtd2f
  | .cvtd2i => pathCvtd2i
  | .cvti2f => pathCvti2f
  | .cvti2d => pathCvti2d
  | .multu => pathMultu
  | .divu => pathDivu

/-- The path of a word: an unassigned one passes like `NOP` (R104, log 10). -/
def pathOfWord (w : Word) : Path :=
  match decodeWord w with
  | some i => pathOf i
  | none => .pass

end Sys2Proof.Machine
end

