-- ==== Sys2Proof/Machine/Pipeline.lean ====
section
/-! DEFINITION. The pipeline engine (46_pipeline_engine.md): the five stages and the whole cycle of R370. Every stage
reads the latches the cycle began with (R320); the new ones are put in place at its end. All other state changes at
the moment a stage acts on it (R321). -/

namespace Sys2Proof.Machine

/-- The word is a `JAL` (R337). -/
def Path.isLink : Path → Bool
  | .jump _ true => true
  | _ => false

/-- The word is a `TRAP` (R338). -/
def Path.isTrap : Path → Bool
  | .trap => true
  | _ => false

/-! ## Memory stage -/

/-- `PC <- EX_MEM.aluout` if the condition is true (R363). -/
def redirect (s : State) : State := if s.exMem.cond then s.setPc s.exMem.aluout else s

/-- The Memory stage (R325, R363): it services the pending access, then acts on the condition. It answers the state
and the record for `MEM_WB.lmd`. -/
def memoryStage (s : State) : Except Fault (State × Option Record) :=
  match s.exMem.acc with
  | .none => .ok (redirect s, none)
  | .read tag addr n signed =>
    match memRead s.cfg.memSize s.mem addr n with
    | none => .error (.outOfRangeData addr)
    | some v => .ok (redirect s, some { tag := tag, value := extendLoad n signed v })
  | .write addr n payload =>
    match memWrite s.cfg.memSize s.mem addr n payload with
    | none => .error (.outOfRangeData addr)
    | some m => .ok (redirect { s with mem := m }, none)

/-! ## Writeback stage -/

/-- Every record of `MEM_WB` committed (R335), in the order of R370. -/
def commitRecords (s : State) : State :=
  ((((s.commitOpt s.memWb.resAlu).commitOpt s.memWb.resFadd).commitOpt s.memWb.resFmul).commitOpt
    s.memWb.resFdiv).commitOpt s.memWb.lmd

/-- The link write of a `JAL` in `MEM_WB` (R337). -/
def linkWriteback (w : MemWb) (s : State) : State :=
  if (pathOfWord w.iw).isLink then (s.writeReg linkReg (w.pc + 4)).setMarker (.r linkReg) false else s

/-- The halt of a `TRAP` in `MEM_WB` (R338). -/
def haltWriteback (w : MemWb) (s : State) : State := if (pathOfWord w.iw).isTrap then s.halt else s

/-- The Writeback stage (R335 to R338). -/
def writebackStage (s : State) : State := haltWriteback s.memWb (linkWriteback s.memWb (commitRecords s))

/-! ## Execute stage, phase 1 -/

/-- The results unloaded in a cycle, at most one for each class (R351). -/
structure UnitResults where
  alu : Option Record
  fadd : Option Record
  fmul : Option Record
  fdiv : Option Record
deriving DecidableEq, Repr

/-- Every unit ticked once, then one result unloaded from each class (R350, R351). -/
def executePhase1 (s : State) : State × UnitResults :=
  ({ s with
      aluPool := (unloadPool (tickPool s.aluPool)).2
      faddPool := (unloadPool (tickPool s.faddPool)).2
      fmulPool := (unloadPool (tickPool s.fmulPool)).2
      fdivPool := (unloadPool (tickPool s.fdivPool)).2 },
    { alu := (unloadPool (tickPool s.aluPool)).1
      fadd := (unloadPool (tickPool s.faddPool)).1
      fmul := (unloadPool (tickPool s.fmulPool)).1
      fdiv := (unloadPool (tickPool s.fdivPool)).1 })

/-- The fresh records of a cycle (R352): the load's record and the unloaded results. -/
def freshRecords (lmd : Option Record) (r : UnitResults) : List Record :=
  lmd.toList ++ r.alu.toList ++ r.fadd.toList ++ r.fmul.toList ++ r.fdiv.toList

/-! ## Execute stage, phase 2 -/

/-- What comes of the instruction in `ID_EX`. -/
inductive Issue where
  /-- Execute takes it (R353): the state and the new `EX_MEM`. -/
  | taken (s : State) (x : ExMem)
  /-- No unit of its class is Idle (R355). -/
  | noUnit
  /-- A form the model refuses (R341). -/
  | refused (r : Refusal)
  /-- The precondition of `load` is violated (R293). -/
  | fault (f : Fault)

/-- The new `EX_MEM` of an instruction that leaves nothing in it but itself (R353). -/
def plainExMem (e : IdEx) : ExMem := { iw := e.iw, pc := e.pc, cond := false, aluout := 0, acc := .none }

/-- Dispatch of a unit operation into the first Idle unit of its class (R353, R354, R356). -/
def issueUnit (op : UnitOp) (dst : Tag) (e : IdEx) (s : State) : Issue :=
  match firstIdle (s.pool op.unitClass) with
  | none => .noUnit
  | some k =>
    match loadPool (s.pool op.unitClass) k dst e.a e.b op (latency s.cfg op.unitClass) with
    | none => .fault (.precondition op.unitClass k)
    | some p => .taken ((s.setPool op.unitClass p).setMarkers dst.slots true) (plainExMem e)

/-- Execute phase 2 on the instruction in a latch (R353 to R357). DESIGN CHOICE (safe, log 9): every word Execute takes is
on U6's "executed path", the two words behind a `TRAP` that Execute takes by the halting cycle among them (R440); a
double at slot 31 there makes the run a refusal, not a halt. -/
def issuePath (p : Path) (e : IdEx) (s : State) : Issue :=
  match p with
  | .unit op dst _ _ => issueUnit op dst e s
  | .load dst _ disp n signed =>
    .taken (s.setMarkers dst.slots true)
      { plainExMem e with acc := .read dst (effAddr (lo32 e.a) disp) n signed }
  | .store _ disp n _ =>
    .taken s { plainExMem e with acc := .write (effAddr (lo32 e.a) disp) n (cutStore n e.b) }
  | .branch _ disp => .taken s { plainExMem e with aluout := branchTarget e.pc disp, cond := e.cond }
  | .jump offset link =>
    .taken (if link then s.setMarker (.r linkReg) true else s)
      { plainExMem e with aluout := jumpTarget e.pc offset, cond := true }
  | .trap => .taken s (plainExMem e)
  | .pass => .taken s (plainExMem e)
  | .slot31 => .refused .doubleAtSlot31

/-- Execute phase 2: the word in the latch decides (R98, R353). -/
def executePhase2 (e : IdEx) (s : State) : Issue := issuePath (pathOfWord e.iw) e s

/-! ## Decode stage -/

/-- The first fresh record that covers a slot gives its value (R348). At most one can (R349; log 21). -/
def freshValue : List Record → Slot → Option Word
  | [], _ => none
  | rec :: rest, sl =>
    match rec.valueFor sl with
    | some v => some v
    | none => freshValue rest sl

/-- Readiness and value of one slot (R348): the register file where the marker is clear, else a fresh record where
forwarding is on, else not ready. -/
def resolveSlot (fresh : List Record) (s : State) (sl : Slot) : Option Word :=
  if s.marker sl = false then some (s.readSlot sl)
  else if s.cfg.forwarding then freshValue fresh sl
  else none

/-- Every source ready (R348) and no marker of the destination set (R349). -/
def pathReady (fresh : List Record) (s : State) (p : Path) : Bool :=
  p.srcs.all (fun sl => (resolveSlot fresh s sl).isSome) && p.dstSlots.all (fun sl => !s.marker sl)

/-- The value of a slot that is ready; the 0 of a slot that is not is never staged. -/
def stagedSlot (fresh : List Record) (s : State) (sl : Slot) : Word := (resolveSlot fresh s sl).getD 0

/-- The latch Decode writes for an instruction that is ready (R346, R347). -/
def stageLatch (fresh : List Record) (s : State) (d : IfId) : IdEx :=
  { iw := d.iw
    pc := d.pc
    a := (pathOfWord d.iw).sourceA.value (stagedSlot fresh s)
    b := (pathOfWord d.iw).sourceB.value (stagedSlot fresh s)
    cond := (pathOfWord d.iw).cond ((pathOfWord d.iw).sourceA.value (stagedSlot fresh s)) }

/-- The Decode stage (R340, R346 to R349, R359); `none`: not ready. -/
def decodeStage (fresh : List Record) (d : IfId) (s : State) : Option IdEx :=
  if pathReady fresh s (pathOfWord d.iw) then some (stageLatch fresh s d) else none

/-! ## Fetch stage -/

/-- The Fetch stage (R365): the new `IF_ID`, or the fatal condition of a `PC` out of range (R67). -/
def fetchStage (s : State) : Except Fault IfId :=
  match fetchWord s.cfg.memSize s.mem s.pc with
  | none => .error (.outOfRangeFetch s.pc)
  | some w => .ok { iw := w, pc := s.pc }

/-! ## The whole cycle -/

/-- The new `MEM_WB` (R326, R351, R370). -/
def nextMemWb (x : ExMem) (lmd : Option Record) (r : UnitResults) : MemWb :=
  { iw := x.iw, pc := x.pc, resAlu := r.alu, resFadd := r.fadd, resFmul := r.fmul, resFdiv := r.fdiv, lmd := lmd }

/-- The latch Execute phase 2 reads: a NOP under a flush (R364). -/
def executeInput (s : State) : IdEx := if s.exMem.cond then nopIdEx else s.idEx

/-- The latch Decode reads: a NOP under a flush (R364). -/
def decodeInput (s : State) : IfId := if s.exMem.cond then nopIfId else s.ifId

/-- The end of a cycle in which Execute found no unit (R355, R361): `ID_EX`, `IF_ID` and `PC` are held. -/
def endExecuteStall (w : MemWb) (s : State) : State :=
  { s with memWb := w, exMem := nopExMem, stalled := true }

/-- The end of a cycle in which Decode was not ready (R359, R361): `IF_ID` and `PC` are held. -/
def endDecodeStall (w : MemWb) (x : ExMem) (s : State) : State :=
  { s with memWb := w, exMem := x, idEx := nopIdEx, stalled := true }

/-- The end of a cycle without a stall (R365): Fetch's word is in `IF_ID` and `PC` is past it. -/
def endFetched (w : MemWb) (x : ExMem) (y : IdEx) (z : IfId) (s : State) : State :=
  { s with memWb := w, exMem := x, idEx := y, ifId := z, pc := s.pc + 4, stalled := false }

/-- Decode and Fetch, after Execute took its instruction (R370). -/
def decodeAndFetch (w : MemWb) (fresh : List Record) (x : ExMem) (d : IfId) (s : State) :
    Host.Outcome State Fault Refusal :=
  match decodeStage fresh d s with
  | none => .next (endDecodeStall w x s)
  | some y =>
    match fetchStage s with
    | .error f => .fault f
    | .ok z => .next (endFetched w x y z s)

/-- Execute phase 2 and the stages after it, on the state phase 1 left (R370). -/
def issueAndBelow (old : State) (lmd : Option Record) (s : State) (r : UnitResults) :
    Host.Outcome State Fault Refusal :=
  match executePhase2 (executeInput old) s with
  | .refused why => .refused why
  | .fault f => .fault f
  | .noUnit => .next (endExecuteStall (nextMemWb old.exMem lmd r) s)
  | .taken s' x => decodeAndFetch (nextMemWb old.exMem lmd r) (freshRecords lmd r) x (decodeInput old) s'

/-- One clock cycle of a machine that is running (R370). -/
def runningCycle (s : State) : Host.Outcome State Fault Refusal :=
  match memoryStage s with
  | .error f => .fault f
  | .ok (s1, lmd) =>
    issueAndBelow s lmd (executePhase1 (writebackStage s1)).1 (executePhase1 (writebackStage s1)).2

/-- `step()` (R322, R370): a halted or fatal machine does nothing. -/
def cycle (s : State) : Host.Outcome State Fault Refusal :=
  if s.halted || s.fatal then .next s else runningCycle s

end Sys2Proof.Machine
end

