-- ==== Sys2Proof/Machine/Interface.lean ====
section
/-! DEFINITION. The operations of the caller and the loader (47_external_interface.md), and a program of one instruction
loaded by them. They act between cycles only; the read operations change nothing (R382 to R384). -/

namespace Sys2Proof.Machine

/-- `read_register(index)` (R382). -/
def readRegister (s : State) (index : Reg) : Word := s.readReg index

/-- `read_float_register(index)` (R383). -/
def readFloatRegister (s : State) (index : Reg) : Word := s.readF index

/-- `read_memory(address, width)` (R384); `none`: out of range, the caller's error, which leaves the run as it is
(log 20). -/
def readMemory (s : State) (address : Word) (width : Width) : Option DWord :=
  memRead s.cfg.memSize s.mem address width

/-- What `step()` returns when it has answered the state `s` (R385, R405): the program has ended. -/
def stepReturns (s : State) : Bool := s.halted || s.fatal

/-- `configure` and reset (R386, R392): a machine of that configuration before the program load. It is offered only
before a run, so no operation changes the configuration of a running machine (log 20). -/
def configure (cfg : Configuration) : State := State.resetWith cfg [] 0

/-- Program load (R389): the loader's bytes at a base address. DESIGN CHOICE (unsafe, log 23): a load that reaches
`MEMSIZE` or past it is not checked. The spec asks the loader to fit (R434) and gives no outcome for one that does not;
the bytes past the end are listed and no access of the machine or the caller can read them. -/
def loadBytes (s : State) (base : Nat) (bytes : List Byte) : State := { s with mem := storeBytes s.mem base bytes }

/-- Program load (R389): the start address. -/
def setStart (s : State) (startPc : Word) : State := s.setPc startPc

/-! ## A program of one instruction (R389, R392, R431) -/

/-- The pipeline as it stands before the first cycle of a run (R50): every latch a NOP, every unit Idle, every marker
and status bit clear. Registers, `FPS`, `PC`, memory and configuration are kept. A state after reset is its own. -/
def State.beforeFirstCycle (s : State) : State :=
  { State.resetWith s.cfg s.mem s.pc with regs := s.regs, fregs := s.fregs, fps := s.fps }

/-- A machine before its first cycle, with the table's bits of one instruction loaded at `PC`: the next step fetches
that word (log 2). -/
def State.withWordAtPc (s : State) (nbits w : Nat) : State :=
  loadBytes s.beforeFirstCycle s.pc.toNat (tableBytes nbits w)

/-- The machine after `n` cycles, or before the first of them that ends in no next state. -/
def runWhileNext : Nat → State → State
  | 0, s => s
  | n + 1, s =>
    match cycle s with
    | .next t => runWhileNext n t
    | .fault _ => s
    | .refused _ => s

/-- The cycle, counted from that of its fetch as 1, in which an instruction that waits for nothing makes its last
effect: the Memory stage for a store, a branch or a jump without link, Writeback for the others, which a result of a
unit of latency `L` reaches in cycle `L + 4` (R372, R374, R431). -/
def lastEffectCycle (cfg : Configuration) (p : Path) : Nat :=
  match p with
  | .unit op _ _ _ => latency cfg op.unitClass + 4
  | .store _ _ _ _ => 4
  | .branch _ _ => 4
  | .jump _ link => if link then 5 else 4
  | .load _ _ _ _ _ => 5
  | .trap => 5
  | .pass => 5
  | .slot31 => 3

end Sys2Proof.Machine
end

