-- ==== Sys2Proof/Machine/Step.lean ====
section
/-! DEFINITION. One step of the machine is one call of the spec's `step()`, one clock cycle (R14, R320, R385), and
the state whose next step is the one in which a given instruction takes effect. -/

namespace Sys2Proof.Machine

/-- One clock cycle (R370, R385). The five instructions in flight advance by one stage each; `exec` is the effect each
has by the time it has left the pipeline (R13, R373; log 1). -/
def step (s : State) : Host.Outcome State Fault Refusal := cycle s

/-- `s` with one instruction loaded at `PC` of an otherwise empty pipeline, and clocked through the cycles in which the
first instruction of a run has no last effect yet (R431): the very next step is the cycle in which that instruction
takes effect, or is refused, or raises its fatal condition. `State.withWordAtPc` is the state before its fetch (log 2). -/
def State.withFetchWord (s : State) (nbits w : Nat) : State :=
  runWhileNext (lastEffectCycle s.cfg (pathOfWord (BitVec.ofNat 32 (w % 2 ^ nbits))) - 1) (s.withWordAtPc nbits w)

end Sys2Proof.Machine
end

