-- ==== Sys2Proof/Safety.lean ====
section
/-! DEFINITION. The terms in which claims about the machine are stated: what an instruction reads and writes, the
invariants of 10_state.md R46 and R47, and what counts as a safe run. -/

namespace Sys2Proof.Machine

/-! ## What an instruction reads and writes (R107), by its own table -/

/-- The slots of a pair of registers. -/
def pairSlots (i : Reg) : List Slot := [.f i, .f (i + 1)]

/-- `srcs` (R107). -/
def sourceSlots : Instr → List Slot
  | .nop => []
  | .add _ rs1 rs2 => [.r rs1, .r rs2]
  | .addu _ rs1 rs2 => [.r rs1, .r rs2]
  | .sub _ rs1 rs2 => [.r rs1, .r rs2]
  | .subu _ rs1 rs2 => [.r rs1, .r rs2]
  | .and _ rs1 rs2 => [.r rs1, .r rs2]
  | .or _ rs1 rs2 => [.r rs1, .r rs2]
  | .xor _ rs1 rs2 => [.r rs1, .r rs2]
  | .sll _ rs1 rs2 => [.r rs1, .r rs2]
  | .srl _ rs1 rs2 => [.r rs1, .r rs2]
  | .sra _ rs1 rs2 => [.r rs1, .r rs2]
  | .seq _ rs1 rs2 => [.r rs1, .r rs2]
  | .sne _ rs1 rs2 => [.r rs1, .r rs2]
  | .slt _ rs1 rs2 => [.r rs1, .r rs2]
  | .sgt _ rs1 rs2 => [.r rs1, .r rs2]
  | .sle _ rs1 rs2 => [.r rs1, .r rs2]
  | .sge _ rs1 rs2 => [.r rs1, .r rs2]
  | .addi _ rs1 _ => [.r rs1]
  | .addui _ rs1 _ => [.r rs1]
  | .subi _ rs1 _ => [.r rs1]
  | .subui _ rs1 _ => [.r rs1]
  | .andi _ rs1 _ => [.r rs1]
  | .ori _ rs1 _ => [.r rs1]
  | .xori _ rs1 _ => [.r rs1]
  | .lhi _ _ => []
  | .slli _ rs1 _ => [.r rs1]
  | .srli _ rs1 _ => [.r rs1]
  | .srai _ rs1 _ => [.r rs1]
  | .seqi _ rs1 _ => [.r rs1]
  | .snei _ rs1 _ => [.r rs1]
  | .slti _ rs1 _ => [.r rs1]
  | .sgti _ rs1 _ => [.r rs1]
  | .slei _ rs1 _ => [.r rs1]
  | .sgei _ rs1 _ => [.r rs1]
  | .addf _ rs1 rs2 => [.f rs1, .f rs2]
  | .subf _ rs1 rs2 => [.f rs1, .f rs2]
  | .multf _ rs1 rs2 => [.f rs1, .f rs2]
  | .divf _ rs1 rs2 => [.f rs1, .f rs2]
  | .addd _ rs1 rs2 => pairSlots rs1 ++ pairSlots rs2
  | .subd _ rs1 rs2 => pairSlots rs1 ++ pairSlots rs2
  | .multd _ rs1 rs2 => pairSlots rs1 ++ pairSlots rs2
  | .divd _ rs1 rs2 => pairSlots rs1 ++ pairSlots rs2
  | .mult _ rs1 rs2 => [.f rs1, .f rs2]
  | .div _ rs1 rs2 => [.f rs1, .f rs2]
  | .eqf rs1 rs2 => [.f rs1, .f rs2]
  | .nef rs1 rs2 => [.f rs1, .f rs2]
  | .ltf rs1 rs2 => [.f rs1, .f rs2]
  | .gtf rs1 rs2 => [.f rs1, .f rs2]
  | .lef rs1 rs2 => [.f rs1, .f rs2]
  | .gef rs1 rs2 => [.f rs1, .f rs2]
  | .eqd rs1 rs2 => pairSlots rs1 ++ pairSlots rs2
  | .ned rs1 rs2 => pairSlots rs1 ++ pairSlots rs2
  | .ltd rs1 rs2 => pairSlots rs1 ++ pairSlots rs2
  | .gtd rs1 rs2 => pairSlots rs1 ++ pairSlots rs2
  | .led rs1 rs2 => pairSlots rs1 ++ pairSlots rs2
  | .ged rs1 rs2 => pairSlots rs1 ++ pairSlots rs2
  | .lb _ rs1 _ => [.r rs1]
  | .lbu _ rs1 _ => [.r rs1]
  | .lh _ rs1 _ => [.r rs1]
  | .lhu _ rs1 _ => [.r rs1]
  | .lw _ rs1 _ => [.r rs1]
  | .lf _ rs1 _ => [.r rs1]
  | .ld _ rs1 _ => [.r rs1]
  | .sb rd rs1 _ => [.r rs1, .r rd]
  | .sh rd rs1 _ => [.r rs1, .r rd]
  | .sw rd rs1 _ => [.r rs1, .r rd]
  | .sf rd rs1 _ => [.r rs1, .f rd]
  | .sd rd rs1 _ => .r rs1 :: pairSlots rd
  | .beqz rs1 _ => [.r rs1]
  | .bnez rs1 _ => [.r rs1]
  | .bfpt _ => [.cc]
  | .bfpf _ => [.cc]
  | .j _ => []
  | .jal _ => []
  | .trap => []
  | .rfe => []
  | .jr => []
  | .jalr => []
  | .movi2s => []
  | .movs2i => []
  | .sequ => []
  | .sneu => []
  | .sltu => []
  | .sgtu => []
  | .sleu => []
  | .sgeu => []
  | .sequi => []
  | .sneui => []
  | .sltui => []
  | .sgtui => []
  | .sleui => []
  | .sgeui => []
  | .movf => []
  | .movd => []
  | .movfp2i => []
  | .movi2fp => []
  | .cvtf2d => []
  | .cvtf2i => []
  | .cvtd2f => []
  | .cvtd2i => []
  | .cvti2f => []
  | .cvti2d => []
  | .multu => []
  | .divu => []

/-- The slots of `dst` (R107): the only places in the register files and the flag an instruction writes. -/
def writtenSlots : Instr → List Slot
  | .nop => []
  | .add rd _ _ => [.r rd]
  | .addu rd _ _ => [.r rd]
  | .sub rd _ _ => [.r rd]
  | .subu rd _ _ => [.r rd]
  | .and rd _ _ => [.r rd]
  | .or rd _ _ => [.r rd]
  | .xor rd _ _ => [.r rd]
  | .sll rd _ _ => [.r rd]
  | .srl rd _ _ => [.r rd]
  | .sra rd _ _ => [.r rd]
  | .seq rd _ _ => [.r rd]
  | .sne rd _ _ => [.r rd]
  | .slt rd _ _ => [.r rd]
  | .sgt rd _ _ => [.r rd]
  | .sle rd _ _ => [.r rd]
  | .sge rd _ _ => [.r rd]
  | .addi rd _ _ => [.r rd]
  | .addui rd _ _ => [.r rd]
  | .subi rd _ _ => [.r rd]
  | .subui rd _ _ => [.r rd]
  | .andi rd _ _ => [.r rd]
  | .ori rd _ _ => [.r rd]
  | .xori rd _ _ => [.r rd]
  | .lhi rd _ => [.r rd]
  | .slli rd _ _ => [.r rd]
  | .srli rd _ _ => [.r rd]
  | .srai rd _ _ => [.r rd]
  | .seqi rd _ _ => [.r rd]
  | .snei rd _ _ => [.r rd]
  | .slti rd _ _ => [.r rd]
  | .sgti rd _ _ => [.r rd]
  | .slei rd _ _ => [.r rd]
  | .sgei rd _ _ => [.r rd]
  | .addf rd _ _ => [.f rd]
  | .subf rd _ _ => [.f rd]
  | .multf rd _ _ => [.f rd]
  | .divf rd _ _ => [.f rd]
  | .addd rd _ _ => pairSlots rd
  | .subd rd _ _ => pairSlots rd
  | .multd rd _ _ => pairSlots rd
  | .divd rd _ _ => pairSlots rd
  | .mult rd _ _ => [.f rd]
  | .div rd _ _ => [.f rd]
  | .eqf _ _ => [.cc]
  | .nef _ _ => [.cc]
  | .ltf _ _ => [.cc]
  | .gtf _ _ => [.cc]
  | .lef _ _ => [.cc]
  | .gef _ _ => [.cc]
  | .eqd _ _ => [.cc]
  | .ned _ _ => [.cc]
  | .ltd _ _ => [.cc]
  | .gtd _ _ => [.cc]
  | .led _ _ => [.cc]
  | .ged _ _ => [.cc]
  | .lb rd _ _ => [.r rd]
  | .lbu rd _ _ => [.r rd]
  | .lh rd _ _ => [.r rd]
  | .lhu rd _ _ => [.r rd]
  | .lw rd _ _ => [.r rd]
  | .lf rd _ _ => [.f rd]
  | .ld rd _ _ => pairSlots rd
  | .sb _ _ _ => []
  | .sh _ _ _ => []
  | .sw _ _ _ => []
  | .sf _ _ _ => []
  | .sd _ _ _ => []
  | .beqz _ _ => []
  | .bnez _ _ => []
  | .bfpt _ => []
  | .bfpf _ => []
  | .j _ => []
  | .jal _ => [.r 31]
  | .trap => []
  | .rfe => []
  | .jr => []
  | .jalr => []
  | .movi2s => []
  | .movs2i => []
  | .sequ => []
  | .sneu => []
  | .sltu => []
  | .sgtu => []
  | .sleu => []
  | .sgeu => []
  | .sequi => []
  | .sneui => []
  | .sltui => []
  | .sgtui => []
  | .sleui => []
  | .sgeui => []
  | .movf => []
  | .movd => []
  | .movfp2i => []
  | .movi2fp => []
  | .cvtf2d => []
  | .cvtf2i => []
  | .cvtd2f => []
  | .cvtd2i => []
  | .cvti2f => []
  | .cvti2d => []
  | .multu => []
  | .divu => []

/-- The bytes a store writes: its effective address (R221), computed as its meaning computes it, and its width (R68);
no other instruction stores. -/
def storedRange (s : State) : Instr → Option (Word × Nat)
  | .nop => none
  | .add _ _ _ => none
  | .addu _ _ _ => none
  | .sub _ _ _ => none
  | .subu _ _ _ => none
  | .and _ _ _ => none
  | .or _ _ _ => none
  | .xor _ _ _ => none
  | .sll _ _ _ => none
  | .srl _ _ _ => none
  | .sra _ _ _ => none
  | .seq _ _ _ => none
  | .sne _ _ _ => none
  | .slt _ _ _ => none
  | .sgt _ _ _ => none
  | .sle _ _ _ => none
  | .sge _ _ _ => none
  | .addi _ _ _ => none
  | .addui _ _ _ => none
  | .subi _ _ _ => none
  | .subui _ _ _ => none
  | .andi _ _ _ => none
  | .ori _ _ _ => none
  | .xori _ _ _ => none
  | .lhi _ _ => none
  | .slli _ _ _ => none
  | .srli _ _ _ => none
  | .srai _ _ _ => none
  | .seqi _ _ _ => none
  | .snei _ _ _ => none
  | .slti _ _ _ => none
  | .sgti _ _ _ => none
  | .slei _ _ _ => none
  | .sgei _ _ _ => none
  | .addf _ _ _ => none
  | .subf _ _ _ => none
  | .multf _ _ _ => none
  | .divf _ _ _ => none
  | .addd _ _ _ => none
  | .subd _ _ _ => none
  | .multd _ _ _ => none
  | .divd _ _ _ => none
  | .mult _ _ _ => none
  | .div _ _ _ => none
  | .eqf _ _ => none
  | .nef _ _ => none
  | .ltf _ _ => none
  | .gtf _ _ => none
  | .lef _ _ => none
  | .gef _ _ => none
  | .eqd _ _ => none
  | .ned _ _ => none
  | .ltd _ _ => none
  | .gtd _ _ => none
  | .led _ _ => none
  | .ged _ _ => none
  | .lb _ _ _ => none
  | .lbu _ _ _ => none
  | .lh _ _ _ => none
  | .lhu _ _ _ => none
  | .lw _ _ _ => none
  | .lf _ _ _ => none
  | .ld _ _ _ => none
  | .sb _ rs1 imm => some (effAddr (s.readReg rs1) imm, 1)
  | .sh _ rs1 imm => some (effAddr (s.readReg rs1) imm, 2)
  | .sw _ rs1 imm => some (effAddr (s.readReg rs1) imm, 4)
  | .sf _ rs1 imm => some (effAddr (s.readReg rs1) imm, 4)
  | .sd _ rs1 imm => some (effAddr (s.readReg rs1) imm, 8)
  | .beqz _ _ => none
  | .bnez _ _ => none
  | .bfpt _ => none
  | .bfpf _ => none
  | .j _ => none
  | .jal _ => none
  | .trap => none
  | .rfe => none
  | .jr => none
  | .jalr => none
  | .movi2s => none
  | .movs2i => none
  | .sequ => none
  | .sneu => none
  | .sltu => none
  | .sgtu => none
  | .sleu => none
  | .sgeu => none
  | .sequi => none
  | .sneui => none
  | .sltui => none
  | .sgtui => none
  | .sleui => none
  | .sgeui => none
  | .movf => none
  | .movd => none
  | .movfp2i => none
  | .movi2fp => none
  | .cvtf2d => none
  | .cvtf2i => none
  | .cvtd2f => none
  | .cvtd2i => none
  | .cvti2f => none
  | .cvti2d => none
  | .multu => none
  | .divu => none

/-- The address `a` is one of the bytes the instruction stores to. -/
def storesTo (i : Instr) (s : State) (a : Nat) : Prop :=
  match storedRange s i with
  | some (ea, n) => ea.toNat ≤ a ∧ a < ea.toNat + n
  | none => False

/-- Two states agree on everything but the register files, the flag, `PC`, memory and `halted`: on all pipeline state
and the configuration. -/
def SamePipeline (s t : State) : Prop :=
  t.cfg = s.cfg ∧ t.ifId = s.ifId ∧ t.idEx = s.idEx ∧ t.exMem = s.exMem ∧ t.memWb = s.memWb ∧ t.ui = s.ui ∧
  t.uf = s.uf ∧ t.uc = s.uc ∧ t.aluPool = s.aluPool ∧ t.faddPool = s.faddPool ∧ t.fmulPool = s.fmulPool ∧
  t.fdivPool = s.fdivPool ∧ t.fatal = s.fatal ∧ t.stalled = s.stalled

/-! ## Invariants of the machine -/

/-- Memory is in its canonical form and lists nothing at or above `MEMSIZE` (R32). -/
def memoryOk (s : State) : Bool := Memory.wf s.mem && s.mem.all (fun c => decide (c.1 < s.cfg.memSize))

/-- The tag kind of an operation's result (R301). -/
def UnitOp.fits (op : UnitOp) (t : Tag) : Bool :=
  match op, t with
  | .int _, .r _ => true
  | .arith _ .single, .fs _ => true
  | .arith _ .double, .fd i => i != 31
  | .rel _ _, .cc => true
  | .intMulDiv _, .fs _ => true
  | _, _ => false

/-- Between cycles a unit of class `k` is Idle, or Busy with an operation of its class, a fitting tag and between 1 and
the class's latency cycles to go; a Done unit has been unloaded in its cycle (R291, R294, R306). -/
def unitOk (cfg : Configuration) (k : UnitClass) : FuncUnit → Bool
  | .idle => true
  | .busy _ _ op rem tag =>
    decide (1 ≤ rem) && decide (rem ≤ latency cfg k) && decide (op.unitClass = k) && op.fits tag
  | .done _ _ => false

/-- The cycles a Busy unit has to go. -/
def FuncUnit.remaining : FuncUnit → Option Nat
  | .busy _ _ _ rem _ => some rem
  | _ => none

/-- A pool has the configured number of units (R43), each as `unitOk` says, and no two Busy units end together: the
invariant behind R306. -/
def poolOk (cfg : Configuration) (k : UnitClass) (p : List FuncUnit) : Bool :=
  decide (p.length = unitCount cfg k) && p.all (unitOk cfg k) && decide ((p.filterMap FuncUnit.remaining).Nodup)

/-- The tag of a record that may be absent names no pair at slot 31 (R28, R40). -/
def recordOk : Option Record → Bool
  | some rec => rec.tag.wf
  | none => true

/-- The pending access is that of the word in the latch (R353), and only a branch or jump has a true condition (R357),
so an access and a redirect never coincide (R363). -/
def exMemOk (x : ExMem) : Bool :=
  match pathOfWord x.iw, x.acc with
  | .load dst _ _ n sg, .read tag _ n' sg' => decide (tag = dst) && decide (n' = n) && decide (sg' = sg) && !x.cond
  | .store _ _ n _, .write _ n' _ => decide (n' = n) && !x.cond
  | .branch _ _, .none => true
  | .jump _ _, .none => x.cond
  | .unit _ _ _ _, .none => !x.cond
  | .trap, .none => !x.cond
  | .pass, .none => !x.cond
  | _, _ => false

/-- The invariant every step keeps: the bounds of the configuration (R8), memory, the pools, the records and the
latch `EX_MEM`. -/
def machineOk (s : State) : Bool :=
  s.cfg.wf && memoryOk s &&
  poolOk s.cfg .alu s.aluPool && poolOk s.cfg .fadd s.faddPool &&
  poolOk s.cfg .fmul s.fmulPool && poolOk s.cfg .fdiv s.fdivPool &&
  recordOk s.memWb.resAlu && recordOk s.memWb.resFadd && recordOk s.memWb.resFmul && recordOk s.memWb.resFdiv &&
  recordOk s.memWb.lmd && exMemOk s.exMem

/-! ## Markers (R47) -/

/-- The tag of a unit's operation, if it holds one. -/
def FuncUnit.tag? : FuncUnit → Option Tag
  | .busy _ _ _ _ tag => some tag
  | .done _ tag => some tag
  | .idle => none

/-- The destination tag of a pending read. -/
def Access.tag? : Access → Option Tag
  | .read tag _ _ _ => some tag
  | _ => Option.none

/-- The link tag of a `JAL` word. -/
def linkTag? (w : Word) : Option Tag := if (pathOfWord w).isLink then some (.r linkReg) else none

/-- The records waiting in `MEM_WB`. -/
def MemWb.records (w : MemWb) : List Record :=
  w.resAlu.toList ++ w.resFadd.toList ++ w.resFmul.toList ++ w.resFdiv.toList ++ w.lmd.toList

/-- The tags of every write that has been dispatched and not yet committed: in units, in the pending read, in the
records, and the links of `JAL`. -/
def inFlightTags (s : State) : List Tag :=
  (s.aluPool ++ s.faddPool ++ s.fmulPool ++ s.fdivPool).filterMap FuncUnit.tag? ++
  s.exMem.acc.tag?.toList ++ (linkTag? s.exMem.iw).toList ++
  s.memWb.records.map Record.tag ++ (linkTag? s.memWb.iw).toList

/-- How many uncommitted writers a slot has. -/
def writersOf (s : State) (sl : Slot) : Nat := ((inFlightTags s).flatMap Tag.slots).count sl

/-- R47 (a) and (b): a marker is set if and only if exactly one uncommitted writer covers its slot, and no slot has
two. -/
def MarkersExact (s : State) : Prop := ∀ sl, writersOf s sl = if s.marker sl then 1 else 0

/-- The destination of the instruction waiting in `ID_EX` has no uncommitted writer (R349). -/
def DestinationFree (s : State) : Prop := ∀ sl ∈ (pathOfWord s.idEx.iw).dstSlots, s.marker sl = false

/-! ## A machine at rest -/

/-- Nothing is in flight and the run has not ended: every latch a bubble, every unit Idle and as many as configured,
every marker clear. -/
def atRest (s : State) : Bool :=
  s.cfg.wf && decide (s.ifId = nopIfId) && decide (s.idEx = nopIdEx) && decide (s.exMem = nopExMem) &&
  decide (s.memWb = nopMemWb) && decide (s.ui = Vector.replicate 32 false) &&
  decide (s.uf = Vector.replicate 32 false) && !s.uc &&
  decide (s.aluPool = List.replicate s.cfg.nAlu .idle) && decide (s.faddPool = List.replicate s.cfg.nFadd .idle) &&
  decide (s.fmulPool = List.replicate s.cfg.nFmul .idle) && decide (s.fdivPool = List.replicate s.cfg.nFdiv .idle) &&
  !s.halted && !s.fatal

/-- How many cycles, from the one that fetches it on, an instruction alone in the machine takes until everything it
writes is committed (R372): 5, and for a unit of latency `L`, `L + 4`. -/
def cyclesAlone (cfg : Configuration) (p : Path) : Nat :=
  match p with
  | .unit op _ _ _ => latency cfg op.unitClass + 4
  | _ => 5

/-- The instruction redirects `PC` when it runs alone (R250): a jump, or a branch whose condition holds. -/
def redirects (p : Path) (s : State) : Bool := p.cond (p.sourceA.value s.readSlot)

/-- How many words after its own an instruction alone in the machine makes Fetch read before it has left (R365, R366):
two if it redirects `PC`, else one in every later cycle. -/
def wordsAfter (p : Path) (s : State) : Nat := if redirects p s then 2 else cyclesAlone s.cfg p - 1

/-- The `n` words from `pc` on are in range and are the NOP word. -/
def nopsFrom (memSize : Nat) (m : Memory) (pc : Word) (n : Nat) : Prop :=
  ∀ j < n, fetchWord memSize m (pc + BitVec.ofNat 32 (4 * j)) = some 0

/-! ## Encodings and results, in the words of the rules -/

/-- Every word of an opcode and a function code is this instruction of its Register-format fields (R91, R105). -/
def RowR (opcode funct : BitVec 6) (mk : Reg → Reg → Reg → Instr) : Prop :=
  ∀ w, fieldOpcode w = opcode → fieldFunct w = funct →
    decodeWord w = some (mk (fieldRdR w) (fieldRs1 w) (fieldRs2 w))

/-- Every word of an opcode is this instruction of its Immediate-format fields (R92, R105). -/
def RowI (opcode : BitVec 6) (mk : Reg → Reg → BitVec 16 → Instr) : Prop :=
  ∀ w, fieldOpcode w = opcode → decodeWord w = some (mk (fieldRdI w) (fieldRs1 w) (fieldImm w))

/-- Every word of an opcode is this instruction of its Jump-format field (R93). -/
def RowJ (opcode : BitVec 6) (mk : BitVec 26 → Instr) : Prop :=
  ∀ w, fieldOpcode w = opcode → decodeWord w = some (mk (fieldOffset w))

/-- The instruction completes, `R[rd] <- v`, and the next one is at `pc + 4`; nothing else changes. -/
def WritesReg (i : Instr) (s : State) (rd : Reg) (v : Word) : Prop := exec i s = .next (s.writeReg rd v).advance

/-- The instruction completes, `F[rd] <- v`, and the next one is at `pc + 4`; nothing else changes. -/
def WritesF (i : Instr) (s : State) (rd : Reg) (v : Word) : Prop := exec i s = .next (s.writeF rd v).advance

/-- The instruction completes, `FD[rd] <- v`, and the next one is at `pc + 4`; nothing else changes. -/
def WritesFD (i : Instr) (s : State) (rd : Reg) (v : DWord) : Prop := exec i s = .next (s.writeFD rd v).advance

/-- The instruction completes, `FPS <- b`, and the next one is at `pc + 4`; nothing else changes. -/
def WritesFlag (i : Instr) (s : State) (b : Bool) : Prop := exec i s = .next (s.writeFps b).advance

/-- The instruction completes as a store: of the state, memory and `PC` alone change; the `n` bytes from `ea` on become
those of `v`, lowest first, and every other byte reads as before (R64). -/
def Stores (i : Instr) (s : State) (ea n : Nat) (v : DWord) : Prop :=
  ∃ m, exec i s = .next { s with mem := m, pc := s.pc + 4 } ∧ Memory.wf m = true ∧
    (∀ k < n, readByte m (ea + k) = v.extractLsb' (8 * k) 8) ∧
    ∀ a, a < ea ∨ ea + n ≤ a → readByte m a = readByte s.mem a

/-- The instruction goes through a functional unit: the operation, the destination, the two operands (R130, R180). -/
def Through (i : Instr) (op : UnitOp) (dst : Tag) (a b : Source) : Prop := pathOf i = .unit op dst a b

/-! ## IEEE results -/

/-- How far a pattern's value is from `num / den` units, times `den`. -/
def fpError (f : FloatFormat) (p : Nat) (num : Int) (den : Nat) : Nat := (fpValue f p * den - num).natAbs

/-- Round-to-nearest, ties-to-even (R182), with infinity standing for the first value past the largest finite one: no
pattern is nearer to `num / den` units, and of two as near the result is the even one. -/
def CorrectlyRounded (f : FloatFormat) (p : Nat) (num : Int) (den : Nat) : Prop :=
  ∀ q < 2 ^ (1 + f.expBits + f.fracBits), fpIsNaN f q = false →
    fpError f p num den ≤ fpError f q num den ∧ (fpError f p num den = fpError f q num den → q = p ∨ p % 2 = 0)

/-- A pattern that is a finite value. -/
def fpFinite (f : FloatFormat) (x : Nat) : Prop := x < 2 ^ (1 + f.expBits + f.fracBits) ∧ fpExp f x ≠ f.expMax

/-- An invalid operation (R183). -/
def fpInvalid (f : FloatFormat) (o : FpArith) (x y : Nat) : Bool :=
  match o with
  | .add => fpIsInf f x && fpIsInf f y && (fpSign f x != fpSign f y)
  | .sub => fpIsInf f x && fpIsInf f y && (fpSign f x == fpSign f y)
  | .mul => (fpIsInf f x && fpIsZero f y) || (fpIsZero f x && fpIsInf f y)
  | .div => (fpIsZero f x && fpIsZero f y) || (fpIsInf f x && fpIsInf f y)

/-- The results of R184 that no rounding makes, for the four functions of a format with these infinities and zeros:
operands that are infinite, quotients by zero, and the sign of every zero, product and quotient. An invalid operation
is none of them (R183). -/
def SpecialResults {w : Nat} (f : FloatFormat) (op : FpArith → BitVec w → BitVec w → BitVec w)
    (inf zero : Bool → BitVec w) : Prop :=
  ∀ a b : BitVec w,
    let finite x := fpFinite f (BitVec.toNat x)
    let isInf x := fpIsInf f (BitVec.toNat x) = true
    let isZero x := fpIsZero f (BitVec.toNat x) = true
    let value x := fpValue f (BitVec.toNat x)
    (finite a → ¬ isZero a → isZero b → op .div a b = inf (a.msb ^^ b.msb)) ∧
    (finite a → isInf b → op .div a b = zero (a.msb ^^ b.msb)) ∧
    (isInf a → finite b → op .div a b = inf (a.msb ^^ b.msb)) ∧
    (isInf a → (finite b ∧ ¬ isZero b) ∨ isInf b →
      op .mul a b = inf (a.msb ^^ b.msb) ∧ op .mul b a = inf (a.msb ^^ b.msb)) ∧
    (isInf a → finite b → op .add a b = a ∧ op .add b a = a ∧ op .sub a b = a ∧ op .sub b a = inf (!a.msb)) ∧
    (isInf a → isInf b → a.msb = b.msb → op .add a b = a) ∧
    (isInf a → isInf b → a.msb ≠ b.msb → op .sub a b = a) ∧
    (isZero a → finite b → op .mul a b = zero (a.msb ^^ b.msb) ∧ op .mul b a = zero (a.msb ^^ b.msb)) ∧
    (isZero a → finite b → ¬ isZero b → op .div a b = zero (a.msb ^^ b.msb)) ∧
    (finite a → finite b → (op .mul a b).msb = (a.msb ^^ b.msb)) ∧
    (finite a → finite b → ¬ isZero b → (op .div a b).msb = (a.msb ^^ b.msb)) ∧
    (isZero a → isZero b → op .add a b = zero (a.msb && b.msb) ∧ op .sub a b = zero (a.msb && !b.msb)) ∧
    (finite a → finite b → ¬ isZero a → value a + value b = 0 → op .add a b = zero false) ∧
    (finite a → finite b → ¬ isZero a → value a = value b → op .sub a b = zero false)

/-! ## Runs -/

/-- Running: not halted, not fatal (R417). -/
def Running (s : State) : Prop := s.halted = false ∧ s.fatal = false

/-- A run of `n` cycles that ends in no fatal condition and no refusal. -/
def safeFor (n : Nat) (s : State) : Prop := ∃ t, Sys2Proof.core.run n s = .next t

end Sys2Proof.Machine
end

