-- ==== Sys2Proof/Certificates/Slice0/Obligations.lean ====
section
/-! DEFINITION. The statements about the model that are to be proved. -/

open Sys2Proof Sys2Proof.Machine

/-- For every instruction, with every operand at every value, the word the encoder writes decodes to it, and so do its
four bytes in little-endian order, whatever bytes follow. (From 30_encoding.md sections 1 to 3,
47_external_interface.md section 3.) -/
def Obligations.DecodeEncodeAgree : Prop :=
  ∀ i : Instr, decodeWord (encode i) = some i ∧ ∀ rest, decode (encodeBytes i ++ rest) = .instr i

/-- Register-format words that differ in shamt only decode alike; the comparisons ignore rd, the branches rd, LHI rs1,
BFPT and BFPF rs1, TRAP, RFE, JR and JALR their 26 low bits, and a word of opcode 0 and function code 0 is NOP
whatever else it holds. The ignored bits are the spec's decision D4, D30 (log 11 for the numbers). (From
30_encoding.md section 4, 93_implementation_defined.md part 1.) -/
def Obligations.IgnoredFieldsIgnored : Prop :=
  (∀ w w' : Word, fieldOpcode w = fieldOpcode w' → fieldOpcode w ∈ [0x00, 0x01] → fieldRs1 w = fieldRs1 w' →
    fieldRs2 w = fieldRs2 w' → fieldRdR w = fieldRdR w' → fieldFunct w = fieldFunct w' → decodeWord w = decodeWord w') ∧
  (∀ w w' : Word, fieldOpcode w = 1 → fieldOpcode w' = 1 → 0x10 ≤ (fieldFunct w).toNat → fieldRs1 w = fieldRs1 w' →
    fieldRs2 w = fieldRs2 w' → fieldFunct w = fieldFunct w' → decodeWord w = decodeWord w') ∧
  (∀ w w' : Word, fieldOpcode w = fieldOpcode w' → fieldOpcode w ∈ [0x04, 0x05] → fieldRs1 w = fieldRs1 w' →
    fieldImm w = fieldImm w' → decodeWord w = decodeWord w') ∧
  (∀ w w' : Word, fieldOpcode w = fieldOpcode w' → fieldOpcode w ∈ [0x06, 0x07] → fieldImm w = fieldImm w' →
    decodeWord w = decodeWord w') ∧
  (∀ w w' : Word, fieldOpcode w = 0x0F → fieldOpcode w' = 0x0F → fieldRdI w = fieldRdI w' → fieldImm w = fieldImm w' →
    decodeWord w = decodeWord w') ∧
  (∀ w : Word, fieldOpcode w = 0x11 → decodeWord w = some .trap) ∧
  (∀ w : Word, fieldOpcode w = 0x10 → decodeWord w = some .rfe) ∧
  (∀ w : Word, fieldOpcode w = 0x12 → decodeWord w = some .jr) ∧
  (∀ w : Word, fieldOpcode w = 0x13 → decodeWord w = some .jalr) ∧
  (∀ w : Word, fieldOpcode w = 0 → fieldFunct w = 0 → decodeWord w = some .nop)

/-- One word of each family, as the rules write it out, decodes to its instruction: add r3, r1, r2; addi r1, r0, 5; lhi
r2, 0x1234; addf f6, f2, f4; eqf f2, f4; lw r2, -4(r1); sd 8(r1), f2; bnez r1, -12; jal +16; trap 0; jr r31; nop.
(From 40_integer_alu.md, 41_fp.md, 42_load_store.md, 43_control.md, 44_system_unimplemented.md.) -/
def Obligations.SampleWordsDecode : Prop :=
  decodeWord 0x00221820 = some (.add 3 1 2) ∧ decodeWord 0x20010005 = some (.addi 1 0 5) ∧
  decodeWord 0x3C021234 = some (.lhi 2 0x1234) ∧ decodeWord 0x04443000 = some (.addf 6 2 4) ∧
  decodeWord 0x04440010 = some (.eqf 2 4) ∧ decodeWord 0x8C22FFFC = some (.lw 2 1 0xFFFC) ∧
  decodeWord 0xBC220008 = some (.sd 2 1 8) ∧ decodeWord 0x1420FFF4 = some (.bnez 1 0xFFF4) ∧
  decodeWord 0x0C000010 = some (.jal 16) ∧ decodeWord 0x44000000 = some .trap ∧
  decodeWord 0x4BE00000 = some .jr ∧ decodeWord 0 = some .nop

/-- A word decodes to no instruction exactly if its opcode is 15, 1E, 1F, 22, 2A, 2C, 2D or from 36 on (hexadecimal), or
its function code under opcode 0 or 1 is unassigned; such a word is of class Unimplemented, Decode never holds it,
and Execute takes it and changes nothing (the spec's decision D6; log 10). (From 30_encoding.md section 4,
93_implementation_defined.md part 1.) -/
def Obligations.UnassignedWordsPass : Prop :=
  (∀ w : Word, decodeWord w = none ↔
    fieldOpcode w ∈ [0x15, 0x1E, 0x1F, 0x22, 0x2A, 0x2C, 0x2D] ∨ 0x36 ≤ (fieldOpcode w).toNat ∨
    (fieldOpcode w = 0 ∧ (fieldFunct w ∈ [0x01, 0x02, 0x03, 0x05, 0x27, 0x2E, 0x2F] ∨
      (8 ≤ (fieldFunct w).toNat ∧ (fieldFunct w).toNat < 0x10) ∨
      (0x16 ≤ (fieldFunct w).toNat ∧ (fieldFunct w).toNat < 0x20) ∨ 0x36 ≤ (fieldFunct w).toNat)) ∨
    (fieldOpcode w = 1 ∧ 0x1E ≤ (fieldFunct w).toNat)) ∧
  ∀ (w pc : Word) (fresh : List Record) (s : State), decodeWord w = none →
    classOf w = .unimplemented ∧
    decodeStage fresh { iw := w, pc := pc } s = some { iw := w, pc := pc, a := 0, b := 0, cond := false } ∧
    ∀ e : IdEx, e.iw = w → executePhase2 e s =
      .taken s { iw := w, pc := e.pc, cond := false, aluout := 0, acc := .none }

/-- MemRead(addr, n) is the sum over k from 0 to n-1 of M[addr+k] times 2^(8k) where addr + n is at most MEMSIZE, and
out of range elsewhere. (Rules R63.) -/
def Obligations.MemReadIsLittleEndianSum : Prop :=
  ∀ (memSize : Nat) (m : Memory) (addr : Word) (n : Width),
    (addr.toNat + n.bytes ≤ memSize →
      memRead memSize m addr n =
        some (BitVec.ofNat 64 (∑ k ∈ Finset.range n.bytes, (readByte m (addr.toNat + k)).toNat * 2 ^ (8 * k))) ∧
      ∑ k ∈ Finset.range n.bytes, (readByte m (addr.toNat + k)).toNat * 2 ^ (8 * k) < 2 ^ (8 * n.bytes)) ∧
    (memSize < addr.toNat + n.bytes → memRead memSize m addr n = none) ∧
    n.bytes ∈ [1, 2, 4, 8]

/-- In range, MemWrite(addr, n, v) sets M[addr+k] to bits 8k+7 to 8k of v for k from 0 to n-1, leaves every other byte
and the canonical form of memory, and reading the same place gives the low 8n bits of v; out of range there is no
new memory. (Rules R64.) -/
def Obligations.MemWriteWritesItsBytes : Prop :=
  ∀ (memSize : Nat) (m : Memory) (addr : Word) (n : Width) (v : DWord), Memory.wf m = true →
    (memSize < addr.toNat + n.bytes → memWrite memSize m addr n v = none) ∧
    (addr.toNat + n.bytes ≤ memSize → ∃ m', memWrite memSize m addr n v = some m' ∧ Memory.wf m' = true ∧
      (∀ k < n.bytes, readByte m' (addr.toNat + k) = v.extractLsb' (8 * k) 8) ∧
      (∀ a, a < addr.toNat ∨ addr.toNat + n.bytes ≤ a → readByte m' a = readByte m a) ∧
      memRead memSize m' addr n = some (cutStore n v))

/-- Where the double at a is in range, it is the word at a + 4 in bits 63 to 32 above the word at a in bits 31 to 0, and
byte a+k holds its bits 8k+7 to 8k; loaded into a register pair, the low word is in the addressed register. (Rules
R62.) -/
def Obligations.DoubleIsTwoWords : Prop :=
  ∀ (memSize : Nat) (m : Memory) (a : Word), memSize ≤ 2 ^ 32 → a.toNat + 8 ≤ memSize →
    ∃ lo hi : Word, memRead memSize m a .word = some (wide lo) ∧ memRead memSize m (a + 4) .word = some (wide hi) ∧
      memRead memSize m a .double = some (hi ++ lo) ∧
      (∀ k < 8, readByte m (a.toNat + k) = (hi ++ lo : DWord).extractLsb' (8 * k) 8) ∧
      ∀ (s : State) (i : Reg), ((s.writeTag (.fd i) (hi ++ lo)).readFD i = hi ++ lo) ∧
        (s.writeTag (.fd i) (hi ++ lo)).readF i = lo ∧ (s.writeTag (.fd i) (hi ++ lo)).readF (i + 1) = hi

/-- FD[i] is F[i+1] above F[i]; writing FD[i] changes exactly these two slots, and a single write to F[i+1] changes the
high half of FD[i] and leaves the low half. (Rules R27.) -/
def Obligations.PairOverlaysSlots : Prop :=
  ∀ (s : State) (i : Reg) (v : DWord) (w : Word), i.toNat ≤ 30 →
    (i + 1).toNat = i.toNat + 1 ∧ s.readFD i = s.readF (i + 1) ++ s.readF i ∧
    (s.writeFD i v).readFD i = v ∧ (s.writeFD i v).readF i = lo32 v ∧ (s.writeFD i v).readF (i + 1) = hi32 v ∧
    (∀ j : Reg, j ≠ i → j ≠ i + 1 → (s.writeFD i v).readF j = s.readF j) ∧
    (s.writeF (i + 1) w).readFD i = w ++ s.readF i

/-- After a write of v to R[i], R[i] reads v and every other register as before, for every i from 0 on; an ADDI to R[0]
leaves its sum there and JAL, which links in R[31], leaves R[0] (that R[0] is ordinary is the spec's decision D13).
(From 10_state.md section 1.) -/
def Obligations.RegisterZeroIsOrdinary : Prop :=
  (∀ (s : State) (i j : Reg) (v : Word), (s.writeReg i v).readReg j = if j = i then v else s.readReg j) ∧
  (∀ (s : State) (imm : BitVec 16), ∃ t, exec (.addi 0 0 imm) s = .next t ∧
    t.readReg 0 = s.readReg 0 + imm.signExtend 32) ∧
  (∀ (s : State) (offset : BitVec 26), ∃ t, exec (.jal offset) s = .next t ∧ t.readReg 0 = s.readReg 0)

/-- Each of the five completes and gives R[rd] its value: the sum and the difference modulo 2^32, and the three bitwise
functions; each has its row of the opcode table (numbers: log 11), goes through an ALU unit with its operation, and
changes nothing else but the place of the next instruction. (Rules R131, R133, R135, R136, R137.) -/
def Obligations.IntegerAddSubtractLogic : Prop :=
  RowR 0x00 0x20 .add ∧
  RowR 0x00 0x22 .sub ∧
  RowR 0x00 0x24 .and ∧
  RowR 0x00 0x25 .or ∧
  RowR 0x00 0x26 .xor ∧
  ∀ (rd rs1 rs2 : Reg) (s : State),
    WritesReg (.add rd rs1 rs2) s rd (BitVec.ofNat 32 ((s.readReg rs1).toNat + (s.readReg rs2).toNat)) ∧
    WritesReg (.sub rd rs1 rs2) s rd (BitVec.ofInt 32 (((s.readReg rs1).toNat : Int) - (s.readReg rs2).toNat)) ∧
    (∃ v, WritesReg (.and rd rs1 rs2) s rd v ∧
      ∀ k, v.getLsbD k = ((s.readReg rs1).getLsbD k && (s.readReg rs2).getLsbD k)) ∧
    (∃ v, WritesReg (.or rd rs1 rs2) s rd v ∧
      ∀ k, v.getLsbD k = ((s.readReg rs1).getLsbD k || (s.readReg rs2).getLsbD k)) ∧
    (∃ v, WritesReg (.xor rd rs1 rs2) s rd v ∧
      ∀ k, v.getLsbD k = ((s.readReg rs1).getLsbD k ^^ (s.readReg rs2).getLsbD k)) ∧
    Through (.add rd rs1 rs2) (.int .add) (.r rd) (.reg rs1) (.reg rs2) ∧
    Through (.sub rd rs1 rs2) (.int .sub) (.r rd) (.reg rs1) (.reg rs2) ∧
    Through (.and rd rs1 rs2) (.int .and) (.r rd) (.reg rs1) (.reg rs2) ∧
    Through (.or rd rs1 rs2) (.int .or) (.r rd) (.reg rs1) (.reg rs2) ∧
    Through (.xor rd rs1 rs2) (.int .xor) (.r rd) (.reg rs1) (.reg rs2)

/-- For every input ADDU answers what ADD answers and SUBU what SUB answers, completing with the sum and the difference
modulo 2^32, each from its own row (that the two exist is general knowledge of the spec, D5; numbers: log 11). (From
40_integer_alu.md section 2.) -/
def Obligations.IntegerUnsignedTwins : Prop :=
  RowR 0x00 0x21 .addu ∧
  RowR 0x00 0x23 .subu ∧
  ∀ (rd rs1 rs2 : Reg) (s : State),
    exec (.addu rd rs1 rs2) s = exec (.add rd rs1 rs2) s ∧ exec (.subu rd rs1 rs2) s = exec (.sub rd rs1 rs2) s ∧
    WritesReg (.addu rd rs1 rs2) s rd (BitVec.ofInt 32 ((s.readReg rs1).toInt + (s.readReg rs2).toInt)) ∧
    WritesReg (.subu rd rs1 rs2) s rd (BitVec.ofInt 32 ((s.readReg rs1).toInt - (s.readReg rs2).toInt))

/-- With n the low five bits of R[rs2]: SLL multiplies by 2^n modulo 2^32, SRL gives the floor of the unsigned value by
2^n, SRA the floor of the signed value by 2^n; each completes (the amount is the spec's decision D4; numbers: log
11). (From 40_integer_alu.md section 2, 92_eei_decisions.md D4.) -/
def Obligations.IntegerShifts : Prop :=
  RowR 0x00 0x04 .sll ∧
  RowR 0x00 0x06 .srl ∧
  RowR 0x00 0x07 .sra ∧
  ∀ (rd rs1 rs2 : Reg) (s : State),
    WritesReg (.sll rd rs1 rs2) s rd (BitVec.ofNat 32 ((s.readReg rs1).toNat * 2 ^ ((s.readReg rs2).extractLsb' 0 5).toNat)) ∧
    WritesReg (.srl rd rs1 rs2) s rd (BitVec.ofNat 32 ((s.readReg rs1).toNat / 2 ^ ((s.readReg rs2).extractLsb' 0 5).toNat)) ∧
    WritesReg (.sra rd rs1 rs2) s rd (BitVec.ofInt 32 ((s.readReg rs1).toInt / 2 ^ ((s.readReg rs2).extractLsb' 0 5).toNat)) ∧
    Through (.sll rd rs1 rs2) (.int .sll) (.r rd) (.reg rs1) (.reg rs2) ∧
    Through (.srl rd rs1 rs2) (.int .srl) (.r rd) (.reg rs1) (.reg rs2) ∧
    Through (.sra rd rs1 rs2) (.int .sra) (.r rd) (.reg rs1) (.reg rs2)

/-- Each of the six completes and gives R[rd] the 32-bit value 1 where the relation holds of the signed values of R[rs1]
and R[rs2], and 0 where it does not; each has its row (numbers: log 11) and goes through an ALU unit with its
operation. (Rules R141, R142, R143, R144, R145, R146.) -/
def Obligations.IntegerSets : Prop :=
  RowR 0x00 0x28 .seq ∧
  RowR 0x00 0x29 .sne ∧
  RowR 0x00 0x2A .slt ∧
  RowR 0x00 0x2B .sgt ∧
  RowR 0x00 0x2C .sle ∧
  RowR 0x00 0x2D .sge ∧
  ∀ (rd rs1 rs2 : Reg) (s : State),
    WritesReg (.seq rd rs1 rs2) s rd (if (s.readReg rs1).toInt = (s.readReg rs2).toInt then 1 else 0) ∧
    WritesReg (.sne rd rs1 rs2) s rd (if (s.readReg rs1).toInt ≠ (s.readReg rs2).toInt then 1 else 0) ∧
    WritesReg (.slt rd rs1 rs2) s rd (if (s.readReg rs1).toInt < (s.readReg rs2).toInt then 1 else 0) ∧
    WritesReg (.sgt rd rs1 rs2) s rd (if (s.readReg rs1).toInt > (s.readReg rs2).toInt then 1 else 0) ∧
    WritesReg (.sle rd rs1 rs2) s rd (if (s.readReg rs1).toInt ≤ (s.readReg rs2).toInt then 1 else 0) ∧
    WritesReg (.sge rd rs1 rs2) s rd (if (s.readReg rs1).toInt ≥ (s.readReg rs2).toInt then 1 else 0) ∧
    Through (.seq rd rs1 rs2) (.int .seq) (.r rd) (.reg rs1) (.reg rs2) ∧
    Through (.sne rd rs1 rs2) (.int .sne) (.r rd) (.reg rs1) (.reg rs2) ∧
    Through (.slt rd rs1 rs2) (.int .slt) (.r rd) (.reg rs1) (.reg rs2) ∧
    Through (.sgt rd rs1 rs2) (.int .sgt) (.r rd) (.reg rs1) (.reg rs2) ∧
    Through (.sle rd rs1 rs2) (.int .sle) (.r rd) (.reg rs1) (.reg rs2) ∧
    Through (.sge rd rs1 rs2) (.int .sge) (.r rd) (.reg rs1) (.reg rs2)

/-- ADDI and SUBI add and subtract the sign-extended immediate modulo 2^32; ANDI, ORI and XORI act bit by bit on the
zero-extended immediate; each completes, has its row (numbers: log 11) and goes through an ALU unit. (Rules R150,
R152, R154, R155, R156.) -/
def Obligations.ImmediateArithmeticLogic : Prop :=
  RowI 0x08 .addi ∧
  RowI 0x0A .subi ∧
  RowI 0x0C .andi ∧
  RowI 0x0D .ori ∧
  RowI 0x0E .xori ∧
  ∀ (rd rs1 : Reg) (imm : BitVec 16) (s : State),
    WritesReg (.addi rd rs1 imm) s rd (BitVec.ofInt 32 ((s.readReg rs1).toNat + imm.toInt)) ∧
    WritesReg (.subi rd rs1 imm) s rd (BitVec.ofInt 32 ((s.readReg rs1).toNat - imm.toInt)) ∧
    (∃ v, WritesReg (.andi rd rs1 imm) s rd v ∧ ∀ k, v.getLsbD k = ((s.readReg rs1).getLsbD k && imm.getLsbD k)) ∧
    (∃ v, WritesReg (.ori rd rs1 imm) s rd v ∧ ∀ k, v.getLsbD k = ((s.readReg rs1).getLsbD k || imm.getLsbD k)) ∧
    (∃ v, WritesReg (.xori rd rs1 imm) s rd v ∧ ∀ k, v.getLsbD k = ((s.readReg rs1).getLsbD k ^^ imm.getLsbD k)) ∧
    Through (.addi rd rs1 imm) (.int .add) (.r rd) (.reg rs1) (.const (imm.signExtend 32)) ∧
    Through (.subi rd rs1 imm) (.int .sub) (.r rd) (.reg rs1) (.const (imm.signExtend 32)) ∧
    Through (.andi rd rs1 imm) (.int .and) (.r rd) (.reg rs1) (.const (imm.setWidth 32)) ∧
    Through (.ori rd rs1 imm) (.int .or) (.r rd) (.reg rs1) (.const (imm.setWidth 32)) ∧
    Through (.xori rd rs1 imm) (.int .xor) (.r rd) (.reg rs1) (.const (imm.setWidth 32))

/-- ADDUI and SUBUI add and subtract the immediate zero-extended to 0 to 65535, modulo 2^32; LHI puts the immediate in
bits 31 to 16 over zeros and reads no register, going through an ALU unit as a left shift by 16; each completes (the
three exist by the spec's general knowledge, D5; numbers: log 11). (From 40_integer_alu.md section 3.) -/
def Obligations.ImmediateUnsignedAndHigh : Prop :=
  RowI 0x09 .addui ∧
  RowI 0x0B .subui ∧
  RowI 0x0F (fun rd _ imm => Instr.lhi rd imm) ∧
  ∀ (rd rs1 : Reg) (imm : BitVec 16) (s : State),
    WritesReg (.addui rd rs1 imm) s rd (BitVec.ofNat 32 ((s.readReg rs1).toNat + imm.toNat)) ∧
    WritesReg (.subui rd rs1 imm) s rd (BitVec.ofInt 32 (((s.readReg rs1).toNat : Int) - imm.toNat)) ∧
    WritesReg (.lhi rd imm) s rd (imm ++ 0#16) ∧
    Through (.addui rd rs1 imm) (.int .add) (.r rd) (.reg rs1) (.const (imm.setWidth 32)) ∧
    Through (.subui rd rs1 imm) (.int .sub) (.r rd) (.reg rs1) (.const (imm.setWidth 32)) ∧
    Through (.lhi rd imm) (.int .sll) (.r rd) (.const (imm.setWidth 32)) (.const 16)

/-- With n the low five bits of the immediate: SLLI multiplies by 2^n modulo 2^32, SRLI gives the floor of the unsigned
value by 2^n, SRAI the floor of the signed value by 2^n, bits 15 to 5 of the immediate being ignored; each
completes, has its row (numbers: log 11) and goes through an ALU unit. (Rules R158, R159, R160.) -/
def Obligations.ImmediateShifts : Prop :=
  RowI 0x14 .slli ∧
  RowI 0x16 .srli ∧
  RowI 0x17 .srai ∧
  ∀ (rd rs1 : Reg) (imm : BitVec 16) (s : State),
    WritesReg (.slli rd rs1 imm) s rd (BitVec.ofNat 32 ((s.readReg rs1).toNat * 2 ^ (imm.extractLsb' 0 5).toNat)) ∧
    WritesReg (.srli rd rs1 imm) s rd (BitVec.ofNat 32 ((s.readReg rs1).toNat / 2 ^ (imm.extractLsb' 0 5).toNat)) ∧
    WritesReg (.srai rd rs1 imm) s rd (BitVec.ofInt 32 ((s.readReg rs1).toInt / 2 ^ (imm.extractLsb' 0 5).toNat)) ∧
    Through (.slli rd rs1 imm) (.int .sll) (.r rd) (.reg rs1) (.const (imm.setWidth 32)) ∧
    Through (.srli rd rs1 imm) (.int .srl) (.r rd) (.reg rs1) (.const (imm.setWidth 32)) ∧
    Through (.srai rd rs1 imm) (.int .sra) (.r rd) (.reg rs1) (.const (imm.setWidth 32))

/-- Each of the six completes and gives R[rd] the 32-bit value 1 where the relation holds of the signed value of R[rs1]
and the signed immediate, and 0 where it does not; each has its row (numbers: log 11) and goes through an ALU unit
with its operation. (Rules R161, R162, R163, R164, R165, R166.) -/
def Obligations.ImmediateSets : Prop :=
  RowI 0x18 .seqi ∧
  RowI 0x19 .snei ∧
  RowI 0x1A .slti ∧
  RowI 0x1B .sgti ∧
  RowI 0x1C .slei ∧
  RowI 0x1D .sgei ∧
  ∀ (rd rs1 : Reg) (imm : BitVec 16) (s : State),
    WritesReg (.seqi rd rs1 imm) s rd (if (s.readReg rs1).toInt = imm.toInt then 1 else 0) ∧
    WritesReg (.snei rd rs1 imm) s rd (if (s.readReg rs1).toInt ≠ imm.toInt then 1 else 0) ∧
    WritesReg (.slti rd rs1 imm) s rd (if (s.readReg rs1).toInt < imm.toInt then 1 else 0) ∧
    WritesReg (.sgti rd rs1 imm) s rd (if (s.readReg rs1).toInt > imm.toInt then 1 else 0) ∧
    WritesReg (.slei rd rs1 imm) s rd (if (s.readReg rs1).toInt ≤ imm.toInt then 1 else 0) ∧
    WritesReg (.sgei rd rs1 imm) s rd (if (s.readReg rs1).toInt ≥ imm.toInt then 1 else 0) ∧
    Through (.seqi rd rs1 imm) (.int .seq) (.r rd) (.reg rs1) (.const (imm.signExtend 32)) ∧
    Through (.snei rd rs1 imm) (.int .sne) (.r rd) (.reg rs1) (.const (imm.signExtend 32)) ∧
    Through (.slti rd rs1 imm) (.int .slt) (.r rd) (.reg rs1) (.const (imm.signExtend 32)) ∧
    Through (.sgti rd rs1 imm) (.int .sgt) (.r rd) (.reg rs1) (.const (imm.signExtend 32)) ∧
    Through (.slei rd rs1 imm) (.int .sle) (.r rd) (.reg rs1) (.const (imm.signExtend 32)) ∧
    Through (.sgei rd rs1 imm) (.int .sge) (.r rd) (.reg rs1) (.const (imm.signExtend 32))

/-- Each of the four completes with F[rd] the single function of F[rs1] and F[rs2] in that order, has its row (numbers:
log 11), and goes through a unit of its class: FADD for addition and subtraction, FMUL, FDIV. (From 41_fp.md section
2, 30_encoding.md section 3.) -/
def Obligations.SingleArithmetic : Prop :=
  RowR 0x01 0x00 .addf ∧
  RowR 0x01 0x01 .subf ∧
  RowR 0x01 0x02 .multf ∧
  RowR 0x01 0x03 .divf ∧
  ∀ (rd rs1 rs2 : Reg) (s : State),
    WritesF (.addf rd rs1 rs2) s rd (fp32 .add (s.readF rs1) (s.readF rs2)) ∧
    WritesF (.subf rd rs1 rs2) s rd (fp32 .sub (s.readF rs1) (s.readF rs2)) ∧
    WritesF (.multf rd rs1 rs2) s rd (fp32 .mul (s.readF rs1) (s.readF rs2)) ∧
    WritesF (.divf rd rs1 rs2) s rd (fp32 .div (s.readF rs1) (s.readF rs2)) ∧
    Through (.addf rd rs1 rs2) (.arith .add .single) (.fs rd) (.single rs1) (.single rs2) ∧
    Through (.subf rd rs1 rs2) (.arith .sub .single) (.fs rd) (.single rs1) (.single rs2) ∧
    Through (.multf rd rs1 rs2) (.arith .mul .single) (.fs rd) (.single rs1) (.single rs2) ∧
    Through (.divf rd rs1 rs2) (.arith .div .single) (.fs rd) (.single rs1) (.single rs2) ∧
  ∀ p : Prec, (UnitOp.arith .add p).unitClass = .fadd ∧ (UnitOp.arith .sub p).unitClass = .fadd ∧
    (UnitOp.arith .mul p).unitClass = .fmul ∧ (UnitOp.arith .div p).unitClass = .fdiv

/-- Where no register field is 31, each of the four completes with FD[rd] the double function of FD[rs1] and FD[rs2],
both read whole before anything is written, also where the pairs overlap: the low word is then in F[rd] and the high
word in F[rd+1]; each has its row (numbers: log 11). (From 41_fp.md section 2, 10_state.md section 3.) -/
def Obligations.DoubleArithmetic : Prop :=
  RowR 0x01 0x04 .addd ∧
  RowR 0x01 0x05 .subd ∧
  RowR 0x01 0x06 .multd ∧
  RowR 0x01 0x07 .divd ∧
  ∀ (rd rs1 rs2 : Reg) (s : State), rd ≠ 31 → rs1 ≠ 31 → rs2 ≠ 31 →
    (∃ t, exec (.addd rd rs1 rs2) s = .next t ∧ WritesFD (.addd rd rs1 rs2) s rd (fp64 .add (s.readFD rs1) (s.readFD rs2)) ∧
      t.readF (rd + 1) ++ t.readF rd = fp64 .add (s.readF (rs1 + 1) ++ s.readF rs1) (s.readF (rs2 + 1) ++ s.readF rs2)) ∧
    (∃ t, exec (.subd rd rs1 rs2) s = .next t ∧ WritesFD (.subd rd rs1 rs2) s rd (fp64 .sub (s.readFD rs1) (s.readFD rs2)) ∧
      t.readF (rd + 1) ++ t.readF rd = fp64 .sub (s.readF (rs1 + 1) ++ s.readF rs1) (s.readF (rs2 + 1) ++ s.readF rs2)) ∧
    (∃ t, exec (.multd rd rs1 rs2) s = .next t ∧ WritesFD (.multd rd rs1 rs2) s rd (fp64 .mul (s.readFD rs1) (s.readFD rs2)) ∧
      t.readF (rd + 1) ++ t.readF rd = fp64 .mul (s.readF (rs1 + 1) ++ s.readF rs1) (s.readF (rs2 + 1) ++ s.readF rs2)) ∧
    (∃ t, exec (.divd rd rs1 rs2) s = .next t ∧ WritesFD (.divd rd rs1 rs2) s rd (fp64 .div (s.readFD rs1) (s.readFD rs2)) ∧
      t.readF (rd + 1) ++ t.readF rd = fp64 .div (s.readF (rs1 + 1) ++ s.readF rs1) (s.readF (rs2 + 1) ++ s.readF rs2)) ∧
    Through (.addd rd rs1 rs2) (.arith .add .double) (.fd rd) (.pair rs1) (.pair rs2) ∧
    Through (.subd rd rs1 rs2) (.arith .sub .double) (.fd rd) (.pair rs1) (.pair rs2) ∧
    Through (.multd rd rs1 rs2) (.arith .mul .double) (.fd rd) (.pair rs1) (.pair rs2) ∧
    Through (.divd rd rs1 rs2) (.arith .div .double) (.fd rd) (.pair rs1) (.pair rs2)

/-- The meaning refuses exactly the instructions that name FD[31], for each of the twelve double forms a pair field
being 31; when such a word is in Decode it is passed on, and when Execute takes it the step is refused (the spec
asks a model to refuse it, D17; that Decode passes it is the model's choice, log 9). (From 10_state.md section 3,
46_pipeline_engine.md section 5, 93_implementation_defined.md part 1.) -/
def Obligations.DoubleAtSlot31Refused : Prop :=
  (∀ (i : Instr) (s : State), (exec i s = .refused .doubleAtSlot31 ↔ i.wellFormed = false) ∧
    ∀ r, exec i s = .refused r → r = .doubleAtSlot31) ∧
  (∀ (rd rs1 rs2 : Reg),
    (∀ mk ∈ [Instr.addd, .subd, .multd, .divd], (mk rd rs1 rs2).wellFormed = false ↔ rd = 31 ∨ rs1 = 31 ∨ rs2 = 31) ∧
    (∀ mk ∈ [Instr.eqd, .ned, .ltd, .gtd, .led, .ged], (mk rs1 rs2).wellFormed = false ↔ rs1 = 31 ∨ rs2 = 31) ∧
    ∀ imm, ((Instr.ld rd rs1 imm).wellFormed = false ↔ rd = 31) ∧ ((Instr.sd rd rs1 imm).wellFormed = false ↔ rd = 31)) ∧
  ∀ (s : State) (w : Word) (i : Instr), decodeWord w = some i → i.wellFormed = false →
    (∀ fresh pc, (decodeStage fresh { iw := w, pc := pc } s).isSome = true) ∧
    (∀ e : IdEx, e.iw = w → executePhase2 e s = .refused .doubleAtSlot31) ∧
    (Running s → s.exMem = nopExMem → s.idEx.iw = w → step s = .refused .doubleAtSlot31)

/-- For the functions fp32 and fp64 that the instructions name, and for the functions on numbers below them, on finite
operands, subnormals at their value: the result of add, subtract, multiply and (by a non-zero) divide is a pattern
whose value no other value of the format, infinity standing for the first value past the largest, is nearer to the
exact result, the even pattern where two are as near; values are counted in units of the smallest subnormal (the
mode is general knowledge of the spec, D15; log 17). (From 41_fp.md section 1.) -/
def Obligations.FpResultsNearestEven : Prop :=
  (∀ f ∈ [binary32, binary64], ∀ x y p : Nat, fpFinite f x → fpFinite f y →
    (fpArith f .add x y = some p → CorrectlyRounded f p (fpValue f x + fpValue f y) 1) ∧
    (fpArith f .sub x y = some p → CorrectlyRounded f p (fpValue f x - fpValue f y) 1) ∧
    (fpArith f .mul x y = some p → CorrectlyRounded f p (fpValue f x * fpValue f y) (2 ^ f.unitLog)) ∧
    (fpArith f .div x y = some p → fpIsZero f y = false →
      CorrectlyRounded f p (fpValue f x * 2 ^ f.unitLog * (fpValue f y).sign) (fpValue f y).natAbs) ∧
    (fpArith f .add x y).isSome = true ∧ (fpArith f .sub x y).isSome = true ∧ (fpArith f .mul x y).isSome = true ∧
    (fpIsZero f y = false → (fpArith f .div x y).isSome = true)) ∧
  (∀ a b : Word, fpFinite binary32 a.toNat → fpFinite binary32 b.toNat →
    CorrectlyRounded binary32 (fp32 .add a b).toNat (fpValue binary32 a.toNat + fpValue binary32 b.toNat) 1 ∧
    CorrectlyRounded binary32 (fp32 .sub a b).toNat (fpValue binary32 a.toNat - fpValue binary32 b.toNat) 1 ∧
    CorrectlyRounded binary32 (fp32 .mul a b).toNat (fpValue binary32 a.toNat * fpValue binary32 b.toNat)
      (2 ^ binary32.unitLog) ∧
    (fpIsZero binary32 b.toNat = false →
      CorrectlyRounded binary32 (fp32 .div a b).toNat
        (fpValue binary32 a.toNat * 2 ^ binary32.unitLog * (fpValue binary32 b.toNat).sign)
        (fpValue binary32 b.toNat).natAbs)) ∧
  (∀ a b : DWord, fpFinite binary64 a.toNat → fpFinite binary64 b.toNat →
    CorrectlyRounded binary64 (fp64 .add a b).toNat (fpValue binary64 a.toNat + fpValue binary64 b.toNat) 1 ∧
    CorrectlyRounded binary64 (fp64 .sub a b).toNat (fpValue binary64 a.toNat - fpValue binary64 b.toNat) 1 ∧
    CorrectlyRounded binary64 (fp64 .mul a b).toNat (fpValue binary64 a.toNat * fpValue binary64 b.toNat)
      (2 ^ binary64.unitLog) ∧
    (fpIsZero binary64 b.toNat = false →
      CorrectlyRounded binary64 (fp64 .div a b).toNat
        (fpValue binary64 a.toNat * 2 ^ binary64.unitLog * (fpValue binary64 b.toNat).sign)
        (fpValue binary64 b.toNat).natAbs))

/-- For singles and doubles and each operation, the result has all exponent bits 1 and a fraction that is not 0 exactly
if an operand is a NaN or the operation is infinity minus infinity, zero times infinity, zero by zero or infinity by
infinity; this holds for every value of the free NaN pattern (log 7). (From 41_fp.md section 1,
93_implementation_defined.md part 1.) -/
def Obligations.NanResultsExactly : Prop :=
  (∀ (o : FpArith) (a b : Word), fpIsNaN binary32 (fp32 o a b).toNat =
    (fpIsNaN binary32 a.toNat || fpIsNaN binary32 b.toNat || fpInvalid binary32 o a.toNat b.toNat)) ∧
  (∀ (o : FpArith) (a b : DWord), fpIsNaN binary64 (fp64 o a b).toNat =
    (fpIsNaN binary64 a.toNat || fpIsNaN binary64 b.toNat || fpInvalid binary64 o a.toNat b.toNat))

/-- For singles and for doubles: a non-zero finite value by zero is an infinity, a finite value by infinity a zero and
an infinity by a finite value an infinity, each with the exclusive-or of the signs; an infinity times a non-zero
value is an infinity of that sign; an infinity plus or minus a finite value, in either order, and plus an equal or
minus an opposite infinity, is that infinity (negated where it is subtracted from a finite value); zero times a
finite value and zero by a non-zero one are zeros of that sign, and every product and quotient of finite values has
it; a sum of two zeros is minus zero exactly if both are, a difference exactly if the first is and the second is
not, and an exact zero sum or difference of non-zero values is plus zero. R184 is general knowledge of the spec
(D15); that a zero sum has these signs is the model's reading of it (log 17, DEDUCED). (From 41_fp.md section 1,
92_eei_decisions.md D15.) -/
def Obligations.DivisionByZeroAndInfinities : Prop :=
  SpecialResults binary32 fp32 (fun negative => if negative then 0xFF800000 else 0x7F800000)
    (fun negative => if negative then 0x80000000 else 0) ∧
  SpecialResults binary64 fp64 (fun negative => if negative then 0xFFF0000000000000 else 0x7FF0000000000000)
    (fun negative => if negative then 0x8000000000000000 else 0)

/-- MULT completes with the signed product in F[rd] where it fits 32 bits; DIV completes with the quotient rounded
toward zero, the remainder having the sign of the dividend, where the divisor is not 0 and the case is not -2^31 by
-1; elsewhere the result is the free value of the operation and the operands, whatever it is (log 8). Rows: log 11;
classes FMUL and FDIV. (From 41_fp.md section 3, 93_implementation_defined.md part 1.) -/
def Obligations.IntegerMultiplyDivide : Prop :=
  RowR 0x01 0x0E .mult ∧
  RowR 0x01 0x0F .div ∧
  (∀ (rd rs1 rs2 : Reg) (s : State),
    (-2 ^ 31 ≤ (s.readF rs1).toInt * (s.readF rs2).toInt → (s.readF rs1).toInt * (s.readF rs2).toInt < 2 ^ 31 →
      ∃ v, WritesF (.mult rd rs1 rs2) s rd v ∧ v.toInt = (s.readF rs1).toInt * (s.readF rs2).toInt) ∧
    ((s.readF rs1).toInt * (s.readF rs2).toInt < -2 ^ 31 ∨ 2 ^ 31 ≤ (s.readF rs1).toInt * (s.readF rs2).toInt →
      WritesF (.mult rd rs1 rs2) s rd (Config.mulDivDraw .mult (s.readF rs1) (s.readF rs2))) ∧
    ((s.readF rs2).toInt ≠ 0 → ¬((s.readF rs1).toInt = -2 ^ 31 ∧ (s.readF rs2).toInt = -1) →
      ∃ (v : Word) (r : Int), WritesF (.div rd rs1 rs2) s rd v ∧
        (s.readF rs1).toInt = (s.readF rs2).toInt * v.toInt + r ∧ r.natAbs < (s.readF rs2).toInt.natAbs ∧
        (r = 0 ∨ r.sign = (s.readF rs1).toInt.sign)) ∧
    ((s.readF rs2).toInt = 0 ∨ ((s.readF rs1).toInt = -2 ^ 31 ∧ (s.readF rs2).toInt = -1) →
      WritesF (.div rd rs1 rs2) s rd (Config.mulDivDraw .div (s.readF rs1) (s.readF rs2))) ∧
    Through (.mult rd rs1 rs2) (.intMulDiv .mult) (.fs rd) (.single rs1) (.single rs2) ∧
    Through (.div rd rs1 rs2) (.intMulDiv .div) (.fs rd) (.single rs1) (.single rs2)) ∧
  (UnitOp.intMulDiv .mult).unitClass = .fmul ∧ (UnitOp.intMulDiv .div).unitClass = .fdiv

/-- Each completes with FPS 1 where the relation holds of the values of F[rs1] and F[rs2], zeros of either sign equal,
and 0 elsewhere; with a NaN operand only NEF gives 1 (general knowledge of the spec, D16); no register is written,
rd is ignored; rows: log 11; class FADD, tag CC. (From 41_fp.md section 4.) -/
def Obligations.SingleComparisons : Prop :=
  RowR 0x01 0x10 (fun _ a b => Instr.eqf a b) ∧
  RowR 0x01 0x11 (fun _ a b => Instr.nef a b) ∧
  RowR 0x01 0x12 (fun _ a b => Instr.ltf a b) ∧
  RowR 0x01 0x13 (fun _ a b => Instr.gtf a b) ∧
  RowR 0x01 0x14 (fun _ a b => Instr.lef a b) ∧
  RowR 0x01 0x15 (fun _ a b => Instr.gef a b) ∧
  ∀ (rs1 rs2 : Reg) (s : State),
    WritesFlag (.eqf rs1 rs2) s
      (decide (fpIsNaN binary32 (s.readF rs1).toNat = false ∧ fpIsNaN binary32 (s.readF rs2).toNat = false ∧
        fpValue binary32 (s.readF rs1).toNat = fpValue binary32 (s.readF rs2).toNat)) ∧
    WritesFlag (.nef rs1 rs2) s
      (decide ¬(fpIsNaN binary32 (s.readF rs1).toNat = false ∧ fpIsNaN binary32 (s.readF rs2).toNat = false ∧
        fpValue binary32 (s.readF rs1).toNat = fpValue binary32 (s.readF rs2).toNat)) ∧
    WritesFlag (.ltf rs1 rs2) s
      (decide (fpIsNaN binary32 (s.readF rs1).toNat = false ∧ fpIsNaN binary32 (s.readF rs2).toNat = false ∧
        fpValue binary32 (s.readF rs1).toNat < fpValue binary32 (s.readF rs2).toNat)) ∧
    WritesFlag (.gtf rs1 rs2) s
      (decide (fpIsNaN binary32 (s.readF rs1).toNat = false ∧ fpIsNaN binary32 (s.readF rs2).toNat = false ∧
        fpValue binary32 (s.readF rs1).toNat > fpValue binary32 (s.readF rs2).toNat)) ∧
    WritesFlag (.lef rs1 rs2) s
      (decide (fpIsNaN binary32 (s.readF rs1).toNat = false ∧ fpIsNaN binary32 (s.readF rs2).toNat = false ∧
        fpValue binary32 (s.readF rs1).toNat ≤ fpValue binary32 (s.readF rs2).toNat)) ∧
    WritesFlag (.gef rs1 rs2) s
      (decide (fpIsNaN binary32 (s.readF rs1).toNat = false ∧ fpIsNaN binary32 (s.readF rs2).toNat = false ∧
        fpValue binary32 (s.readF rs1).toNat ≥ fpValue binary32 (s.readF rs2).toNat)) ∧
    Through (.eqf rs1 rs2) (.rel .eq .single) .cc (.single rs1) (.single rs2) ∧
    Through (.nef rs1 rs2) (.rel .ne .single) .cc (.single rs1) (.single rs2) ∧
    Through (.ltf rs1 rs2) (.rel .lt .single) .cc (.single rs1) (.single rs2) ∧
    Through (.gtf rs1 rs2) (.rel .gt .single) .cc (.single rs1) (.single rs2) ∧
    Through (.lef rs1 rs2) (.rel .le .single) .cc (.single rs1) (.single rs2) ∧
    Through (.gef rs1 rs2) (.rel .ge .single) .cc (.single rs1) (.single rs2) ∧
  ∀ r : FpRel, (UnitOp.rel r .single).unitClass = .fadd

/-- Where neither field is 31, each completes with FPS 1 where the relation holds of the values of FD[rs1] and FD[rs2]
and 0 elsewhere; with a NaN operand only NED gives 1 (general knowledge of the spec, D16); rows: log 11; class FADD,
tag CC. (From 41_fp.md section 4.) -/
def Obligations.DoubleComparisons : Prop :=
  RowR 0x01 0x18 (fun _ a b => Instr.eqd a b) ∧
  RowR 0x01 0x19 (fun _ a b => Instr.ned a b) ∧
  RowR 0x01 0x1A (fun _ a b => Instr.ltd a b) ∧
  RowR 0x01 0x1B (fun _ a b => Instr.gtd a b) ∧
  RowR 0x01 0x1C (fun _ a b => Instr.led a b) ∧
  RowR 0x01 0x1D (fun _ a b => Instr.ged a b) ∧
  ∀ (rs1 rs2 : Reg) (s : State), rs1 ≠ 31 → rs2 ≠ 31 →
    WritesFlag (.eqd rs1 rs2) s
      (decide (fpIsNaN binary64 (s.readFD rs1).toNat = false ∧ fpIsNaN binary64 (s.readFD rs2).toNat = false ∧
        fpValue binary64 (s.readFD rs1).toNat = fpValue binary64 (s.readFD rs2).toNat)) ∧
    WritesFlag (.ned rs1 rs2) s
      (decide ¬(fpIsNaN binary64 (s.readFD rs1).toNat = false ∧ fpIsNaN binary64 (s.readFD rs2).toNat = false ∧
        fpValue binary64 (s.readFD rs1).toNat = fpValue binary64 (s.readFD rs2).toNat)) ∧
    WritesFlag (.ltd rs1 rs2) s
      (decide (fpIsNaN binary64 (s.readFD rs1).toNat = false ∧ fpIsNaN binary64 (s.readFD rs2).toNat = false ∧
        fpValue binary64 (s.readFD rs1).toNat < fpValue binary64 (s.readFD rs2).toNat)) ∧
    WritesFlag (.gtd rs1 rs2) s
      (decide (fpIsNaN binary64 (s.readFD rs1).toNat = false ∧ fpIsNaN binary64 (s.readFD rs2).toNat = false ∧
        fpValue binary64 (s.readFD rs1).toNat > fpValue binary64 (s.readFD rs2).toNat)) ∧
    WritesFlag (.led rs1 rs2) s
      (decide (fpIsNaN binary64 (s.readFD rs1).toNat = false ∧ fpIsNaN binary64 (s.readFD rs2).toNat = false ∧
        fpValue binary64 (s.readFD rs1).toNat ≤ fpValue binary64 (s.readFD rs2).toNat)) ∧
    WritesFlag (.ged rs1 rs2) s
      (decide (fpIsNaN binary64 (s.readFD rs1).toNat = false ∧ fpIsNaN binary64 (s.readFD rs2).toNat = false ∧
        fpValue binary64 (s.readFD rs1).toNat ≥ fpValue binary64 (s.readFD rs2).toNat)) ∧
    Through (.eqd rs1 rs2) (.rel .eq .double) .cc (.pair rs1) (.pair rs2) ∧
    Through (.ned rs1 rs2) (.rel .ne .double) .cc (.pair rs1) (.pair rs2) ∧
    Through (.ltd rs1 rs2) (.rel .lt .double) .cc (.pair rs1) (.pair rs2) ∧
    Through (.gtd rs1 rs2) (.rel .gt .double) .cc (.pair rs1) (.pair rs2) ∧
    Through (.led rs1 rs2) (.rel .le .double) .cc (.pair rs1) (.pair rs2) ∧
    Through (.ged rs1 rs2) (.rel .ge .double) .cc (.pair rs1) (.pair rs2) ∧
  ∀ (r : FpRel) (p : Prec), (UnitOp.rel r p).unitClass = .fadd

/-- For every base and displacement the address is u32 of the sum with the signed displacement, and the targets of
branches and jumps are u32 of pc + 4 plus theirs (the wrap and the base are the spec's decisions D10, D11). (From
42_load_store.md section 1, 43_control.md section 1.) -/
def Obligations.EffectiveAddressWraps : Prop :=
  ∀ (base pc : Word) (imm : BitVec 16) (offset : BitVec 26),
    effAddr base imm = BitVec.ofInt 32 ((base.toNat : Int) + imm.toInt) ∧
    branchTarget pc imm = BitVec.ofInt 32 ((pc.toNat : Int) + 4 + imm.toInt) ∧
    jumpTarget pc offset = BitVec.ofInt 32 ((pc.toNat : Int) + 4 + offset.toInt)

/-- Where the access is in range, each completes: LB and LH give R[rd] the byte or half-word at the effective address
with its sign, LBU and LHU with zeros, LW the word, little-endian; no alignment is asked for; rows: log 11
(mnemonics and extensions are general knowledge of the spec). (From 42_load_store.md section 2, 20_memory.md section
2.) -/
def Obligations.IntegerLoads : Prop :=
  RowI 0x20 .lb ∧
  RowI 0x24 .lbu ∧
  RowI 0x21 .lh ∧
  RowI 0x25 .lhu ∧
  RowI 0x23 .lw ∧
  ∀ (rd rs1 : Reg) (imm : BitVec 16) (s : State),
    ((effAddr (s.readReg rs1) imm).toNat + 1 ≤ s.cfg.memSize →
      WritesReg (.lb rd rs1 imm) s rd ((readByte s.mem (effAddr (s.readReg rs1) imm).toNat).signExtend 32) ∧
      WritesReg (.lbu rd rs1 imm) s rd ((readByte s.mem (effAddr (s.readReg rs1) imm).toNat).setWidth 32)) ∧
    ((effAddr (s.readReg rs1) imm).toNat + 2 ≤ s.cfg.memSize →
      WritesReg (.lh rd rs1 imm) s rd ((readByte s.mem ((effAddr (s.readReg rs1) imm).toNat + 1) ++ readByte s.mem (effAddr (s.readReg rs1) imm).toNat).signExtend 32) ∧
      WritesReg (.lhu rd rs1 imm) s rd ((readByte s.mem ((effAddr (s.readReg rs1) imm).toNat + 1) ++ readByte s.mem (effAddr (s.readReg rs1) imm).toNat).setWidth 32)) ∧
    ((effAddr (s.readReg rs1) imm).toNat + 4 ≤ s.cfg.memSize →
      WritesReg (.lw rd rs1 imm) s rd
        (readByte s.mem ((effAddr (s.readReg rs1) imm).toNat + 3) ++ readByte s.mem ((effAddr (s.readReg rs1) imm).toNat + 2) ++
          readByte s.mem ((effAddr (s.readReg rs1) imm).toNat + 1) ++ readByte s.mem (effAddr (s.readReg rs1) imm).toNat))

/-- Where the access is in range, LF completes with the four bytes at the effective address in F[rd], and LD, for rd
from 0 to 30, with the word there in F[rd] and the word four bytes on in F[rd+1], with no conversion; rows: log 11.
(From 42_load_store.md section 2, 20_memory.md section 2.) -/
def Obligations.FloatLoads : Prop :=
  RowI 0x26 .lf ∧
  RowI 0x27 .ld ∧
  ∀ (rd rs1 : Reg) (imm : BitVec 16) (s : State),
    ((effAddr (s.readReg rs1) imm).toNat + 4 ≤ s.cfg.memSize →
      WritesF (.lf rd rs1 imm) s rd
        (readByte s.mem ((effAddr (s.readReg rs1) imm).toNat + 3) ++ readByte s.mem ((effAddr (s.readReg rs1) imm).toNat + 2) ++
          readByte s.mem ((effAddr (s.readReg rs1) imm).toNat + 1) ++ readByte s.mem (effAddr (s.readReg rs1) imm).toNat)) ∧
    (rd ≠ 31 → (effAddr (s.readReg rs1) imm).toNat + 8 ≤ s.cfg.memSize →
      ∃ t, exec (.ld rd rs1 imm) s = .next t ∧ t.pc = s.pc + 4 ∧ t.regs = s.regs ∧ t.mem = s.mem ∧
        (∀ j : Reg, j ≠ rd → j ≠ rd + 1 → t.readF j = s.readF j) ∧
        t.readF rd = (readByte s.mem ((effAddr (s.readReg rs1) imm).toNat + 3) ++ readByte s.mem ((effAddr (s.readReg rs1) imm).toNat + 2) ++
          readByte s.mem ((effAddr (s.readReg rs1) imm).toNat + 1) ++ readByte s.mem (effAddr (s.readReg rs1) imm).toNat) ∧
        t.readF (rd + 1) = (readByte s.mem ((effAddr (s.readReg rs1) imm).toNat + 7) ++ readByte s.mem ((effAddr (s.readReg rs1) imm).toNat + 6) ++
          readByte s.mem ((effAddr (s.readReg rs1) imm).toNat + 5) ++ readByte s.mem ((effAddr (s.readReg rs1) imm).toNat + 4)))

/-- Where the access is in range, each completes and writes the low 1, 2 or 4 bytes of R[rd], the 4 bytes of F[rd], or
the 8 bytes of FD[rd] (rd from 0 to 30), lowest first, from the effective address on; every other byte, every
register and the flag are as before; out of range SD, like the others, writes nothing and faults, and SD to rd = 31
is refused; a double stored and loaded back gives the same pair; the descriptor of SB is the write of bits 7 to 0;
rows: log 11. (Rules R235, R236, R237, R238, R239.) -/
def Obligations.StoresWriteTheirBytes : Prop :=
  RowI 0x28 .sb ∧
  RowI 0x29 .sh ∧
  RowI 0x2B .sw ∧
  RowI 0x2E .sf ∧
  RowI 0x2F .sd ∧
  ∀ (rd rs1 : Reg) (imm : BitVec 16) (s : State), Memory.wf s.mem = true →
    ((effAddr (s.readReg rs1) imm).toNat + 1 ≤ s.cfg.memSize →
      Stores (.sb rd rs1 imm) s (effAddr (s.readReg rs1) imm).toNat 1 (wide (s.readReg rd))) ∧
    ((effAddr (s.readReg rs1) imm).toNat + 2 ≤ s.cfg.memSize →
      Stores (.sh rd rs1 imm) s (effAddr (s.readReg rs1) imm).toNat 2 (wide (s.readReg rd))) ∧
    ((effAddr (s.readReg rs1) imm).toNat + 4 ≤ s.cfg.memSize →
      Stores (.sw rd rs1 imm) s (effAddr (s.readReg rs1) imm).toNat 4 (wide (s.readReg rd)) ∧
      Stores (.sf rd rs1 imm) s (effAddr (s.readReg rs1) imm).toNat 4 (wide (s.readF rd))) ∧
    (rd ≠ 31 → (effAddr (s.readReg rs1) imm).toNat + 8 ≤ s.cfg.memSize →
      Stores (.sd rd rs1 imm) s (effAddr (s.readReg rs1) imm).toNat 8 (s.readF (rd + 1) ++ s.readF rd)) ∧
    (rd = 31 → exec (.sd rd rs1 imm) s = .refused .doubleAtSlot31) ∧
    (rd ≠ 31 → s.cfg.memSize < (effAddr (s.readReg rs1) imm).toNat + 8 →
      exec (.sd rd rs1 imm) s = .fault (.outOfRangeData (effAddr (s.readReg rs1) imm))) ∧
    (rd ≠ 31 → (effAddr (s.readReg rs1) imm).toNat + 8 ≤ s.cfg.memSize → ∀ fd : Reg, fd ≠ 31 →
      ∃ t u, exec (.sd rd rs1 imm) s = .next t ∧ exec (.ld fd rs1 imm) t = .next u ∧ u.readFD fd = s.readFD rd) ∧
    ∀ e : IdEx, decodeWord e.iw = some (.sb rd rs1 imm) → ∃ x, executePhase2 e s = .taken s x ∧
      x.acc = .write (BitVec.ofInt 32 ((lo32 e.a).toNat + imm.toInt)) .byte ((e.b.extractLsb' 0 8).setWidth 64)

/-- A load or store whose address plus width, computed without wrap, is above MEMSIZE ends in the out-of-range fault
with that address, the doubles too where rd is not 31; and whatever faults is a load or store, with that fault and
no other. (From 20_memory.md section 4, 42_load_store.md section 1.) -/
def Obligations.OutOfRangeAccessFaults : Prop :=
  (∀ (rd rs1 : Reg) (imm : BitVec 16) (s : State),
    (∀ p ∈ [(Instr.lb, 1), (.lbu, 1), (.lh, 2), (.lhu, 2), (.lw, 4), (.lf, 4), (.sb, 1), (.sh, 2), (.sw, 4), (.sf, 4)],
      exec (p.1 rd rs1 imm) s = .fault (.outOfRangeData (effAddr (s.readReg rs1) imm)) ↔
        s.cfg.memSize < (effAddr (s.readReg rs1) imm).toNat + p.2) ∧
    (rd ≠ 31 → ∀ mk ∈ [Instr.ld, .sd],
      exec (mk rd rs1 imm) s = .fault (.outOfRangeData (effAddr (s.readReg rs1) imm)) ↔
        s.cfg.memSize < (effAddr (s.readReg rs1) imm).toNat + 8)) ∧
  ∀ (i : Instr) (s : State) (f : Fault), exec i s = .fault f →
    (i.instrClass = .load ∨ i.instrClass = .store) ∧ ∃ rd rs1 imm, f = .outOfRangeData (effAddr (s.readReg rs1) imm) ∧
      i ∈ [.lb rd rs1 imm, .lbu rd rs1 imm, .lh rd rs1 imm, .lhu rd rs1 imm, .lw rd rs1 imm, .lf rd rs1 imm,
        .ld rd rs1 imm, .sb rd rs1 imm, .sh rd rs1 imm, .sw rd rs1 imm, .sf rd rs1 imm, .sd rd rs1 imm]

/-- Each completes, changing PC alone: to pc + 4 plus the signed displacement where its condition holds (R[rs1] zero,
R[rs1] not zero, FPS 1, FPS 0) and to pc + 4 elsewhere; rows: log 11; the base of the target is the spec's decision
D11. (From 43_control.md section 1.) -/
def Obligations.ConditionalBranches : Prop :=
  RowI 0x04 (fun _ r m => Instr.beqz r m) ∧
  RowI 0x05 (fun _ r m => Instr.bnez r m) ∧
  RowI 0x06 (fun _ _ m => Instr.bfpt m) ∧
  RowI 0x07 (fun _ _ m => Instr.bfpf m) ∧
  ∀ (rs1 : Reg) (imm : BitVec 16) (s : State),
    let taken := s.setPc (BitVec.ofInt 32 ((s.pc.toNat : Int) + 4 + imm.toInt))
    let next := s.setPc (BitVec.ofNat 32 (s.pc.toNat + 4))
    exec (.beqz rs1 imm) s = .next (if (s.readReg rs1).toNat = 0 then taken else next) ∧
    exec (.bnez rs1 imm) s = .next (if (s.readReg rs1).toNat = 0 then next else taken) ∧
    exec (.bfpt imm) s = .next (if s.fps = true then taken else next) ∧
    exec (.bfpf imm) s = .next (if s.fps = true then next else taken)

/-- Each completes and sends PC to pc + 4 plus the signed offset, modulo 2^32; JAL first gives R[31] the value pc + 4,
and nothing else changes, R[0] to R[30] among it; rows: log 11; the link register is the spec's decision D12. (From
43_control.md section 1.) -/
def Obligations.JumpsAndLink : Prop :=
  RowJ 0x02 .j ∧ RowJ 0x03 .jal ∧
  ∀ (offset : BitVec 26) (s : State),
    exec (.j offset) s = .next (s.setPc (BitVec.ofInt 32 ((s.pc.toNat : Int) + 4 + offset.toInt))) ∧
    exec (.jal offset) s = .next ((s.writeReg 31 (BitVec.ofNat 32 (s.pc.toNat + 4))).setPc
      (BitVec.ofInt 32 ((s.pc.toNat : Int) + 4 + offset.toInt)))

/-- Every word of opcode 11 hexadecimal is TRAP; it completes with halted set and every other piece of state, PC among
it, as before (that the number is ignored is the spec's decision D30; log 15). (From 44_system_unimplemented.md
section 1.) -/
def Obligations.TrapHalts : Prop :=
  (∀ w : Word, fieldOpcode w = 0x11 → decodeWord w = some .trap) ∧
  ∀ s : State, exec .trap s = .next { s with halted := true }

/-- Each of the thirty completes, the next instruction is the one at pc + 4 and all other state is as before; the class
of NOP is Nop and of the others Unimplemented; none reads a source, has a destination or needs a unit. (From
30_encoding.md section 3, 44_system_unimplemented.md section 2.) -/
def Obligations.UnimplementedDoNothing : Prop :=
  (∀ i ∈ ([.nop, .rfe, .jr, .jalr, .movi2s, .movs2i, .sequ, .sneu, .sltu, .sgtu, .sleu, .sgeu, .sequi, .sneui, .sltui, .sgtui, .sleui, .sgeui, .movf, .movd, .movfp2i, .movi2fp, .cvtf2d, .cvtf2i, .cvtd2f, .cvtd2i, .cvti2f, .cvti2d, .multu, .divu] : List Instr),
    (∀ s : State, exec i s = .next { s with pc := s.pc + 4 }) ∧ sourceSlots i = [] ∧ writtenSlots i = [] ∧
    pathOf i = .pass ∧ i.instrClass = if i = .nop then .nop else .unimplemented) ∧
  ∀ i : Instr, i.instrClass = .nop ∨ i.instrClass = .unimplemented → pathOf i = .pass

/-- When the meaning of any instruction gives a next state: every register, slot and the flag is as before except the
destination of R107 (one register, one slot, the pair rd and rd+1 of a double, the flag of a comparison, R[31] of
JAL, none of a store, branch, J, TRAP, NOP or unimplemented instruction); every byte of memory outside the bytes a
store writes, at the effective address and of the width of its rule, reads as before, and memory is the same for
every other instruction; halted changes by TRAP only; configuration and all pipeline state are as before. (From
30_encoding.md section 5, 00_scope.md section 5.) -/
def Obligations.ArchitecturalFrame : Prop :=
  ∀ (i : Instr) (s t : State), exec i s = .next t →
    (∀ sl : Slot, sl ∉ writtenSlots i → t.readSlot sl = s.readSlot sl) ∧
    (storedRange s i = none → t.mem = s.mem) ∧
    (Memory.wf s.mem = true → ∀ a, ¬ storesTo i s a → readByte t.mem a = readByte s.mem a) ∧
    (i ≠ .trap → t.halted = s.halted) ∧ SamePipeline s t

/-- From two states that agree on the sources of R107, on PC, on memory and on the configuration, a well-formed
instruction ends alike: next states that agree on the destination, on PC and on memory, or the same fault. (From
30_encoding.md section 5, 00_scope.md section 5.) -/
def Obligations.EffectDependsOnSourcesOnly : Prop :=
  ∀ (i : Instr) (s s' : State), i.wellFormed = true → (∀ sl ∈ sourceSlots i, s'.readSlot sl = s.readSlot sl) →
    s'.pc = s.pc → s'.mem = s.mem → s'.cfg = s.cfg →
    (∀ t, exec i s = .next t → ∃ t', exec i s' = .next t' ∧ t'.pc = t.pc ∧ t'.mem = t.mem ∧
      ∀ sl ∈ writtenSlots i, t'.readSlot sl = t.readSlot sl) ∧
    ∀ f, exec i s = .fault f → exec i s' = .fault f

/-- For every configuration, image and start: every register, slot and flag is 0, PC is the start, memory the image,
every latch the NOP value, every unit Idle and as many as configured, every marker clear and the status bits false
(the zeros of the registers are the spec's decision D29, log 5; the configuration, image and start of State.reset
are the model's choice, log 3 and 4). (From 10_state.md section 13, 70_reset_and_hazards.md section 1.) -/
def Obligations.ResetState : Prop :=
  (∀ (cfg : Configuration) (image : Memory) (start : Word) (s : State), s = State.resetWith cfg image start →
    (∀ i, s.readReg i = 0 ∧ s.readF i = 0) ∧ s.fps = false ∧ s.pc = start ∧ s.mem = image ∧ s.cfg = cfg ∧
    s.ifId = nopIfId ∧ s.idEx = nopIdEx ∧ s.exMem = nopExMem ∧ s.memWb = nopMemWb ∧
    (∀ k, (∀ u ∈ s.pool k, u = .idle) ∧ (s.pool k).length = unitCount cfg k) ∧ (∀ sl, s.marker sl = false) ∧
    s.halted = false ∧ s.fatal = false ∧ s.stalled = false) ∧
  State.reset = State.resetWith Configuration.sample [] 0

/-- After reset with any configuration within the bounds of R8 and any image in canonical form below MEMSIZE, the
machine is at rest and meets the structural invariant, every marker is exact, and the destination of the instruction
in ID_EX is free; State.reset is such a state. (From 10_state.md sections 12, 13.) -/
def Obligations.ResetMeetsInvariants : Prop :=
  (∀ (cfg : Configuration) (image : Memory) (start : Word), cfg.wf = true → Memory.wf image = true →
    (∀ c ∈ image, c.1 < cfg.memSize) →
    machineOk (State.resetWith cfg image start) = true ∧ MarkersExact (State.resetWith cfg image start) ∧
    DestinationFree (State.resetWith cfg image start) ∧ atRest (State.resetWith cfg image start) = true) ∧
  machineOk State.reset = true ∧ MarkersExact State.reset ∧ DestinationFree State.reset ∧ atRest State.reset = true

/-- At rest, a step puts the word at PC and its address in IF_ID and moves PC past it, and changes nothing else. For
every word that decodes to an instruction i, the stages follow the path of i, and the meaning exec of i is the
effect of that same path; the statement on a machine that starts at rest (DrainedRunIsExec) joins the two. (From
46_pipeline_engine.md sections 5, 7, 70_reset_and_hazards.md section 1.) -/
def Obligations.StepRunsTheDecodedInstruction : Prop :=
  (∀ (s : State) (w : Word), atRest s = true → fetchWord s.cfg.memSize s.mem s.pc = some w →
    step s = .next { s with ifId := { iw := w, pc := s.pc }, pc := s.pc + 4, stalled := false }) ∧
  ∀ (w : Word) (i : Instr), decodeWord w = some i →
    (∀ (e : IdEx) (s : State), e.iw = w → executePhase2 e s = issuePath (pathOf i) e s) ∧
    (∀ (fresh : List Record) (d : IfId) (s : State), d.iw = w →
      ((decodeStage fresh d s).isSome = true ↔ pathReady fresh s (pathOf i) = true)) ∧
    ∀ s : State, exec i s = runAlone (pathOf i) s

/-- With memory in canonical form and PC in range: in a machine before its first cycle with a word loaded at PC
(withWordAtPc), the next step puts that word and its address in IF_ID and moves PC past it. If the word decodes to i
and the words behind it are NOPs, then in the state of withFetchWord the registers, slots, flag and memory are still
those before i and the machine is not halted, and the very next step makes them those of the meaning of i, with PC
past what Fetch has read by then, at the target if i redirects; where the meaning of i faults or is refused, that
step ends in the same fault or refusal (log 2). (From 46_pipeline_engine.md sections 7, 8, 20_memory.md section 4,
70_reset_and_hazards.md section 1.) -/
def Obligations.FetchWordIsFetched : Prop :=
  (∀ (s : State) (w : Nat), Memory.wf s.mem = true → s.pc.toNat + 4 ≤ s.cfg.memSize →
    ∃ t, step (s.withWordAtPc 32 w) = .next t ∧ t.ifId = { iw := BitVec.ofNat 32 w, pc := s.pc } ∧ t.pc = s.pc + 4) ∧
  ∀ (s : State) (w : Nat) (i : Instr), s.cfg.wf = true → Memory.wf s.mem = true →
    s.pc.toNat + 4 ≤ s.cfg.memSize → decodeWord (BitVec.ofNat 32 w) = some i →
    let loaded := s.withWordAtPc 32 w
    let n := lastEffectCycle s.cfg (pathOf i)
    let behind := if redirects (pathOf i) loaded then 2 else n - 1
    nopsFrom s.cfg.memSize loaded.mem (s.pc + 4) behind →
    (s.withFetchWord 32 w).regs = s.regs ∧ (s.withFetchWord 32 w).fregs = s.fregs ∧
    (s.withFetchWord 32 w).fps = s.fps ∧ (s.withFetchWord 32 w).mem = loaded.mem ∧
    (s.withFetchWord 32 w).halted = false ∧
    (∀ t, exec i loaded = .next t → nopsFrom s.cfg.memSize t.mem (s.pc + 4) behind →
      (redirects (pathOf i) loaded = true → nopsFrom s.cfg.memSize t.mem t.pc 2) →
      ∃ u, step (s.withFetchWord 32 w) = .next u ∧ u.regs = t.regs ∧ u.fregs = t.fregs ∧ u.fps = t.fps ∧
        u.mem = t.mem ∧ u.halted = t.halted ∧
        u.pc = if redirects (pathOf i) loaded then t.pc + BitVec.ofNat 32 (4 * (n - 3)) else s.pc + BitVec.ofNat 32 (4 * n)) ∧
    (∀ f, exec i loaded = .fault f → step (s.withFetchWord 32 w) = .fault f) ∧
    ∀ r, exec i loaded = .refused r → step (s.withFetchWord 32 w) = .refused r

/-- Where halted or fatal is set, a step answers the same state and the operation returns true; in a running machine the
operation returns true exactly if a TRAP is in MEM_WB as the cycle begins. (From 60_exceptions.md section 3,
47_external_interface.md section 2.) -/
def Obligations.HaltedStepChangesNothing : Prop :=
  (∀ s : State, s.halted = true ∨ s.fatal = true → step s = .next s ∧ stepReturns s = true) ∧
  ∀ s t : State, Running s → step s = .next t →
    t.fatal = false ∧ t.halted = (pathOfWord s.memWb.iw).isTrap ∧ stepReturns t = (pathOfWord s.memWb.iw).isTrap

/-- In a running machine a step that answers a state leaves PC at a base or at the base plus 4: the base is
EX_MEM.aluout where EX_MEM.cond is true and the old PC elsewhere; the 4 is added exactly if the cycle did not stall,
modulo 2^32, and then Fetch has read the word at the base into IF_ID with that address; a halted or fatal machine
leaves PC; reset and program load set PC to the start they are given. (Rules R24.) -/
def Obligations.PcWriters : Prop :=
  (∀ s t : State, Running s → step s = .next t →
    (s.exMem.cond = true → t.stalled = false ∧ t.pc = s.exMem.aluout + 4 ∧ t.ifId.pc = s.exMem.aluout ∧
      fetchWord s.cfg.memSize t.mem s.exMem.aluout = some t.ifId.iw) ∧
    (s.exMem.cond = false → t.pc = (if t.stalled then s.pc else s.pc + 4) ∧
      (t.stalled = false → t.ifId.pc = s.pc ∧ fetchWord s.cfg.memSize t.mem s.pc = some t.ifId.iw))) ∧
  (∀ s : State, s.halted = true ∨ s.fatal = true → ∃ t, step s = .next t ∧ t.pc = s.pc) ∧
  (∀ (cfg : Configuration) (image : Memory) (start : Word), (State.resetWith cfg image start).pc = start) ∧
  ∀ (s : State) (start : Word), (setStart s start).pc = start

/-- In a running machine with no redirect, after a step: MEM_WB has the word of EX_MEM; without a stall EX_MEM has that
of ID_EX, ID_EX that of IF_ID, and IF_ID the word at PC and PC is past it; with a stall IF_ID and PC are held, and
either ID_EX is held and EX_MEM is a bubble, or EX_MEM has the word of ID_EX and ID_EX is a bubble. (From
46_pipeline_engine.md sections 4 to 7.) -/
def Obligations.StepAdvancesOrHolds : Prop :=
  ∀ s t : State, Running s → step s = .next t → s.exMem.cond = false →
    t.memWb.iw = s.exMem.iw ∧ t.memWb.pc = s.exMem.pc ∧
    (t.stalled = false →
      t.exMem.iw = s.idEx.iw ∧ t.exMem.pc = s.idEx.pc ∧ t.idEx.iw = s.ifId.iw ∧ t.idEx.pc = s.ifId.pc ∧
      fetchWord s.cfg.memSize t.mem s.pc = some t.ifId.iw ∧ t.ifId.pc = s.pc ∧ t.pc = s.pc + 4) ∧
    (t.stalled = true → t.ifId = s.ifId ∧ t.pc = s.pc ∧
      ((t.idEx = s.idEx ∧ t.exMem = nopExMem) ∨
       (t.idEx = nopIdEx ∧ t.exMem.iw = s.idEx.iw ∧ t.exMem.pc = s.idEx.pc)))

/-- In a running machine with no redirect, a step that stalls either holds in ID_EX a unit operation of a class in
which, after this cycle's results were taken, no unit is Idle, or holds in IF_ID an instruction one of whose sources
has its marker set with no fresh record for it (or forwarding off), or whose destination has a marker set; and where
none of these is so after a step, the step did not stall. (From 46_pipeline_engine.md sections 4 to 6.) -/
def Obligations.StallOnlyForAReason : Prop :=
  ∀ s t : State, Running s → step s = .next t → s.exMem.cond = false →
    (t.stalled = true ↔
      (∃ op dst a b, pathOfWord s.idEx.iw = .unit op dst a b ∧ t.exMem = nopExMem ∧ t.idEx = s.idEx ∧
        (∀ u ∈ t.pool op.unitClass, u ≠ .idle)) ∨
      (t.exMem.iw = s.idEx.iw ∧ t.idEx = nopIdEx ∧ t.ifId = s.ifId ∧ t.pc = s.pc ∧
        ((∃ sl ∈ (pathOfWord s.ifId.iw).srcs, t.marker sl = true ∧
          (s.cfg.forwarding = false ∨ ∀ rec ∈ t.memWb.records, sl ∉ rec.tag.slots)) ∨
         ∃ sl ∈ (pathOfWord s.ifId.iw).dstSlots, t.marker sl = true)))

/-- In a running machine with no redirect, after a step without a stall: no marker of the destination of the instruction
now in ID_EX is set; each source slot has its marker clear and was read from the register file, this cycle's
Writeback included, or forwarding is on and a record now in MEM_WB gave its value; A and B are the sources of its
class at those values and cond is the condition of its class on A. (From 46_pipeline_engine.md section 5.) -/
def Obligations.StagedOperandsAreFinal : Prop :=
  ∀ s t : State, Running s → step s = .next t → s.exMem.cond = false → t.stalled = false →
    (∀ sl ∈ (pathOfWord s.ifId.iw).dstSlots, t.marker sl = false) ∧
    ∃ get : Slot → Word,
      (∀ sl ∈ (pathOfWord s.ifId.iw).srcs,
        (t.marker sl = false ∧ get sl = t.readSlot sl) ∨
        (t.marker sl = true ∧ s.cfg.forwarding = true ∧ ∃ rec ∈ t.memWb.records, rec.valueFor sl = some (get sl))) ∧
      t.idEx.a = (pathOfWord s.ifId.iw).sourceA.value get ∧ t.idEx.b = (pathOfWord s.ifId.iw).sourceB.value get ∧
      t.idEx.cond = (pathOfWord s.ifId.iw).cond t.idEx.a

/-- In a running machine whose EX_MEM.cond is true, a step that answers a state does not stall, leaves bubbles in ID_EX
and EX_MEM and the word at the target in IF_ID, with PC past it; the discarded instructions set no marker and load
no unit; and with no access pending and the target in range the step does answer a state. (From
46_pipeline_engine.md sections 2, 7, 43_control.md section 2.) -/
def Obligations.TakenBranchFlushes : Prop :=
  ∀ s : State, Running s → s.exMem.cond = true →
    (∀ t, step s = .next t →
      t.stalled = false ∧ t.idEx = nopIdEx ∧ t.exMem = nopExMem ∧ t.ifId.pc = s.exMem.aluout ∧
      fetchWord s.cfg.memSize t.mem s.exMem.aluout = some t.ifId.iw ∧ t.pc = s.exMem.aluout + 4 ∧
      (∀ sl, t.marker sl = true → s.marker sl = true) ∧
      ∀ k, t.pool k = (unloadPool (tickPool (s.pool k))).2) ∧
    (s.exMem.acc = .none → s.exMem.aluout.toNat + 4 ≤ s.cfg.memSize → ∃ t, step s = .next t)

/-- In a running machine, a step that answers a state: a pending write has been made as MemWrite and leaves no load
record; a pending read has changed no memory and its value, extended to 32 bits by sign or by zeros where it is
narrower than 4 bytes, is the record in MEM_WB.lmd under the tag of the descriptor; with no descriptor memory is the
same and lmd is empty; an access out of range faults. (Rules R325.) -/
def Obligations.MemoryStageServicesAccess : Prop :=
  ∀ s : State, Running s →
    (∀ t, step s = .next t →
      (∀ addr n payload, s.exMem.acc = .write addr n payload →
        memWrite s.cfg.memSize s.mem addr n payload = some t.mem ∧ t.memWb.lmd = none) ∧
      (∀ tag addr n sg, s.exMem.acc = .read tag addr n sg → t.mem = s.mem ∧
        ∃ v, memRead s.cfg.memSize s.mem addr n = some v ∧ t.memWb.lmd = some
          { tag := tag
            value := match n with
              | .byte => wide (if sg then (v.extractLsb' 0 8).signExtend 32 else (v.extractLsb' 0 8).setWidth 32)
              | .half => wide (if sg then (v.extractLsb' 0 16).signExtend 32 else (v.extractLsb' 0 16).setWidth 32)
              | .word => wide (lo32 v)
              | .double => v }) ∧
      (s.exMem.acc = .none → t.mem = s.mem ∧ t.memWb.lmd = none)) ∧
    (∀ tag addr n sg, s.exMem.acc = .read tag addr n sg → s.cfg.memSize < addr.toNat + n.bytes →
      step s = .fault (.outOfRangeData addr)) ∧
    ∀ addr n payload, s.exMem.acc = .write addr n payload → s.cfg.memSize < addr.toNat + n.bytes →
      step s = .fault (.outOfRangeData addr)

/-- In a running machine whose markers are exact, a step that answers a state: every slot a record of MEM_WB covers
holds the record's value for it (the low 32 bits for R and FS, the two halves for FD, bit 0 for CC); after a JAL in
MEM_WB, R[31] is its address plus 4; every slot that no record and no link covers is as before; where nothing was
dispatched to a covered slot in the same cycle its marker is clear. (From 46_pipeline_engine.md section 3,
10_state.md section 12.) -/
def Obligations.WritebackCommitsRecords : Prop :=
  ∀ s t : State, Running s → MarkersExact s → step s = .next t →
    (∀ rec ∈ s.memWb.records,
      (∀ i, rec.tag = .r i → t.readReg i = lo32 rec.value) ∧ (∀ i, rec.tag = .fs i → t.readF i = lo32 rec.value) ∧
      (∀ i, rec.tag = .fd i → t.readF i = lo32 rec.value ∧ t.readF (i + 1) = hi32 rec.value) ∧
      (rec.tag = .cc → t.fps = rec.value.getLsbD 0) ∧
      ∀ sl ∈ rec.tag.slots, sl ∉ (pathOfWord (executeInput s).iw).dstSlots → t.marker sl = false) ∧
    ((pathOfWord s.memWb.iw).isLink = true → t.readReg 31 = s.memWb.pc + 4) ∧
    ∀ sl, (∀ rec ∈ s.memWb.records, sl ∉ rec.tag.slots) → ((pathOfWord s.memWb.iw).isLink = true → sl ≠ .r 31) →
      t.readSlot sl = s.readSlot sl

/-- For a unit operation: where unit k of its class is Idle and none before it is, Execute takes the instruction, unit k
becomes Busy with the operands, the operation, the latency of the class (1 for the ALU) and the tag, every other
unit is as before, exactly the markers the tag covers become set, and EX_MEM carries the word and its address and
nothing else; where no unit of the class is Idle it does not take it. No other instruction needs a unit. (From
46_pipeline_engine.md section 4, 45_functional_units.md sections 2, 3.) -/
def Obligations.DispatchTakesFirstIdleUnit : Prop :=
  (∀ (e : IdEx) (s : State) (op : UnitOp) (dst : Tag) (a b : Source), pathOfWord e.iw = .unit op dst a b →
    (∀ k : Nat, (s.pool op.unitClass)[k]? = some FuncUnit.idle → (∀ j : Nat, j < k → (s.pool op.unitClass)[j]? ≠ some FuncUnit.idle) →
      ∃ s', executePhase2 e s =
          .taken s' { iw := e.iw, pc := e.pc, cond := false, aluout := 0, acc := .none } ∧
        (s'.pool op.unitClass)[k]? = some (FuncUnit.busy e.a e.b op (latency s.cfg op.unitClass) dst) ∧
        (∀ j : Nat, j ≠ k → (s'.pool op.unitClass)[j]? = (s.pool op.unitClass)[j]?) ∧
        (∀ c, c ≠ op.unitClass → s'.pool c = s.pool c) ∧
        (∀ sl, s'.marker sl = true ↔ sl ∈ dst.slots ∨ s.marker sl = true) ∧
        (∀ sl, s'.readSlot sl = s.readSlot sl) ∧ s'.mem = s.mem ∧ s'.pc = s.pc) ∧
    ((∀ u ∈ s.pool op.unitClass, u ≠ .idle) → executePhase2 e s = .noUnit)) ∧
  (∀ cfg : Configuration, latency cfg .alu = 1 ∧ latency cfg .fadd = cfg.lFadd ∧ latency cfg .fmul = cfg.lFmul ∧
    latency cfg .fdiv = cfg.lFdiv) ∧
  ∀ (e : IdEx) (s : State), executePhase2 e s = .noUnit → ∃ op dst a b, pathOfWord e.iw = .unit op dst a b

/-- A load leaves the read of its tag, width and signedness at u32(A + displacement) and sets the markers of its tag; a
store the write of the low 8n bits of B there; a branch its target and ID_EX.cond; a jump its target and true, JAL
setting the marker of R[31]; TRAP, NOP and unimplemented words leave nothing; the word and its address go along in
every row, and none of these ever waits for a unit. (From 46_pipeline_engine.md section 4, 42_load_store.md section
1.) -/
def Obligations.ExecuteFormsAccessAndTarget : Prop :=
  ∀ (e : IdEx) (s : State) (rd rs1 : Reg) (imm : BitVec 16) (offset : BitVec 26),
    let x : ExMem := { iw := e.iw, pc := e.pc, cond := false, aluout := 0, acc := .none }
    let ea : Word := BitVec.ofInt 32 ((lo32 e.a).toNat + imm.toInt)
    (∀ p ∈ [(Instr.lb, Tag.r rd, Width.byte, true), (.lbu, .r rd, .byte, false), (.lh, .r rd, .half, true),
        (.lhu, .r rd, .half, false), (.lw, .r rd, .word, false), (.lf, .fs rd, .word, false),
        (.ld, .fd rd, .double, false)],
      decodeWord e.iw = some (p.1 rd rs1 imm) → (p.1 rd rs1 imm).wellFormed = true →
      executePhase2 e s = .taken (s.setMarkers p.2.1.slots true)
        { x with acc := .read p.2.1 ea p.2.2.1 p.2.2.2 }) ∧
    (∀ p ∈ [(Instr.sb, Width.byte), (.sh, .half), (.sw, .word), (.sf, .word), (.sd, .double)],
      decodeWord e.iw = some (p.1 rd rs1 imm) → (p.1 rd rs1 imm).wellFormed = true →
      executePhase2 e s = .taken s
        { x with acc := .write ea p.2 (BitVec.ofNat 64 (e.b.toNat % 2 ^ (8 * p.2.bytes))) }) ∧
    (∀ i ∈ [Instr.beqz rs1 imm, .bnez rs1 imm, .bfpt imm, .bfpf imm], decodeWord e.iw = some i →
      executePhase2 e s = .taken s
        { x with aluout := BitVec.ofInt 32 (e.pc.toNat + 4 + imm.toInt), cond := e.cond }) ∧
    (decodeWord e.iw = some (.j offset) →
      executePhase2 e s = .taken s
        { x with aluout := BitVec.ofInt 32 (e.pc.toNat + 4 + offset.toInt), cond := true }) ∧
    (decodeWord e.iw = some (.jal offset) →
      executePhase2 e s = .taken (s.setMarker (.r 31) true)
        { x with aluout := BitVec.ofInt 32 (e.pc.toNat + 4 + offset.toInt), cond := true }) ∧
    (classOf e.iw ∈ [.trap, .nop, .unimplemented] → executePhase2 e s = .taken s x)

/-- A unit loaded when Idle with latency L at least 1 is Busy with L - n cycles to go after n ticks for every n below L,
is Done after L ticks with the operation of its operands under its tag, and stays Done under further ticks; an Idle
unit stays Idle; a Done unit's result is taken once and leaves it Idle, and no other unit gives one; loading a unit
that is not Idle is refused. (From 45_functional_units.md section 2.) -/
def Obligations.UnitResultAfterLatency : Prop :=
  (∀ (tag : Tag) (a b : DWord) (op : UnitOp) (l : Nat), 1 ≤ l →
    ∃ u, FuncUnit.idle.load tag a b op l = some u ∧
      (∀ n < l, (FuncUnit.tick^[n]) u = .busy a b op (l - n) tag) ∧
      ∀ n, (FuncUnit.tick^[l + n]) u = .done (compute op a b) tag) ∧
  (∀ n, (FuncUnit.tick^[n]) .idle = .idle) ∧
  (∀ (v : DWord) (tag : Tag), (FuncUnit.done v tag).takeResult = (some { tag := tag, value := v }, .idle)) ∧
  (∀ u : FuncUnit, (∀ v tag, u ≠ .done v tag) → u.takeResult = (none, u)) ∧
  ∀ (u : FuncUnit) (tag : Tag) (a b : DWord) (op : UnitOp) (l : Nat), u ≠ .idle → u.load tag a b op l = none

/-- In a state that meets the structural invariant, after the ticks of a cycle no two units of a class are Done, and
after the results are taken none is. (From 45_functional_units.md section 5, 10_state.md section 12.) -/
def Obligations.AtMostOneResultPerClass : Prop :=
  ∀ (s : State) (k : UnitClass), machineOk s = true →
    (∀ (i j : Nat) (v v' : DWord) (t t' : Tag), (tickPool (s.pool k))[i]? = some (FuncUnit.done v t) → (tickPool (s.pool k))[j]? = some (FuncUnit.done v' t') →
      i = j) ∧
    ∀ u ∈ (unloadPool (tickPool (s.pool k))).2, ∀ v t, u ≠ .done v t

/-- Where unit k of a pool is Done and none before it is, unloading gives its result under its tag and leaves exactly
that unit Idle; where no unit is Done it gives nothing and changes nothing. (From 45_functional_units.md section 2.) -/
def Obligations.UnloadTakesLowestDone : Prop :=
  ∀ p : List FuncUnit,
    (∀ (k : Nat) (v : DWord) (t : Tag), p[k]? = some (FuncUnit.done v t) → (∀ j : Nat, j < k → ∀ v' t', p[j]? ≠ some (FuncUnit.done v' t')) →
      unloadPool p = (some { tag := t, value := v }, p.set k .idle)) ∧
    ((∀ u ∈ p, ∀ v t, u ≠ .done v t) → unloadPool p = (none, p))

/-- A step ends in the out-of-range data fault at an address exactly if the machine is running and a read or write of
that address is pending and ends past MEMSIZE; in the fetch fault only if it is running and the word at PC, or at
the target where the condition is true, ends past MEMSIZE, with that address, and always so at a taken target with
no access pending; the precondition fault never happens; and a step that refuses does so for a double at slot 31.
(From 60_exceptions.md section 2, 45_functional_units.md section 2.) -/
def Obligations.FaultsOfAStep : Prop :=
  (∀ (s : State) (addr : Word), step s = .fault (.outOfRangeData addr) ↔ Running s ∧
    ((∃ tag n sg, s.exMem.acc = .read tag addr n sg ∧ s.cfg.memSize < addr.toNat + n.bytes) ∨
     (∃ n payload, s.exMem.acc = .write addr n payload ∧ s.cfg.memSize < addr.toNat + n.bytes))) ∧
  (∀ (s : State) (p : Word), step s = .fault (.outOfRangeFetch p) →
    Running s ∧ p = (if s.exMem.cond then s.exMem.aluout else s.pc) ∧ s.cfg.memSize < p.toNat + 4) ∧
  (∀ s : State, Running s → s.exMem.cond = true → s.exMem.acc = .none →
    s.cfg.memSize < s.exMem.aluout.toNat + 4 → step s = .fault (.outOfRangeFetch s.exMem.aluout)) ∧
  (∀ (s : State) (k : UnitClass) (n : Nat), step s ≠ .fault (.precondition k n)) ∧
  ∀ (s : State) (r : Refusal), step s = .refused r → r = .doubleAtSlot31

/-- Whatever a step answers as a next state has the configuration it began with and as many units in each pool. (From
47_external_interface.md section 2, 00_scope.md section 4.) -/
def Obligations.ConfigurationIsConstant : Prop :=
  ∀ s t : State, step s = .next t → t.cfg = s.cfg ∧ ∀ k, (t.pool k).length = (s.pool k).length

/-- From every state that meets it, reached or not, a step that answers a state answers one that meets it: the
configuration within the bounds of R8; memory in canonical form with nothing at or above MEMSIZE; each pool with the
configured number of units, each Idle or Busy with an operation of its class, a fitting tag and 1 to latency cycles
to go, no two ending together; no record and no operation for a pair at slot 31; the pending access that of the word
in EX_MEM, and never together with a redirect. (From 10_state.md sections 6 to 12, 45_functional_units.md section
5.) -/
def Obligations.StepKeepsMachineOk : Prop :=
  ∀ s t : State, machineOk s = true → Sys2Proof.Machine.step s = .next t → machineOk t = true

/-- From every state with the structural invariant, in which each slot has one uncommitted writer if its marker is set
and none if it is clear, and the destination of the instruction in ID_EX is unmarked, a step that answers a state
answers one of which the same holds. (From 10_state.md section 12, 46_pipeline_engine.md section 5.) -/
def Obligations.StepKeepsMarkersExact : Prop :=
  ∀ s t : State, machineOk s = true → MarkersExact s → DestinationFree s → Sys2Proof.Machine.step s = .next t →
    MarkersExact t ∧ DestinationFree t

/-- From a machine at rest, if the word at PC decodes to i, the meaning of i gives t, and the words Fetch reads behind
it are NOPs (before and after its store), then running the machine for the number of cycles i takes alone (5, or its
unit's latency plus 4) ends without fault or refusal in a state with the registers, slots, flag, memory and halted
bit of t, Fetch having gone on at the target if i redirects and straight on if not, no marker set and every unit
Idle. (From 46_pipeline_engine.md sections 3, 8, 00_scope.md section 5, 70_reset_and_hazards.md section 1.) -/
def Obligations.DrainedRunIsExec : Prop :=
  ∀ (s t : State) (w : Word) (i : Instr), atRest s = true →
    fetchWord s.cfg.memSize s.mem s.pc = some w → decodeWord w = some i → exec i s = .next t →
    nopsFrom s.cfg.memSize s.mem (s.pc + 4) (wordsAfter (pathOf i) s) →
    nopsFrom s.cfg.memSize t.mem (s.pc + 4) (wordsAfter (pathOf i) s) →
    (redirects (pathOf i) s = true → nopsFrom s.cfg.memSize t.mem t.pc 2) →
    ∃ u, Sys2Proof.core.run (cyclesAlone s.cfg (pathOf i)) s = .next u ∧
      u.regs = t.regs ∧ u.fregs = t.fregs ∧ u.fps = t.fps ∧ u.mem = t.mem ∧ u.halted = t.halted ∧
      u.pc = (if redirects (pathOf i) s then t.pc + 8 else s.pc + BitVec.ofNat 32 (4 * cyclesAlone s.cfg (pathOf i))) ∧
      (∀ sl, u.marker sl = false) ∧ ∀ k, u.pool k = s.pool k

/-- read_register and read_float_register give R[i] and F[i]; read_memory gives MemRead of the width where the range is
in memory and nothing elsewhere; after loading bytes at a base, byte k of them is at base + k and every other byte
of memory in canonical form is as before, and no state but memory changes; setting the start changes PC alone; a
configured machine is the state after reset with the configuration it is given, no byte set and the start 0 until
one is loaded, and it is at rest exactly if the configuration is within its bounds (out-of-range reads: log 20;
loads that do not fit: log 23; the start before a load: log 4). (From 47_external_interface.md sections 2, 3.) -/
def Obligations.InterfaceReadsCommittedState : Prop :=
  (∀ (s : State) (i : Reg), readRegister s i = s.readReg i ∧ readFloatRegister s i = s.readF i) ∧
  (∀ (s : State) (a : Word) (n : Width), readMemory s a n =
    if a.toNat + n.bytes ≤ s.cfg.memSize then memRead s.cfg.memSize s.mem a n else none) ∧
  (∀ (s : State) (base : Nat) (bytes : List Byte), Memory.wf s.mem = true →
    (∀ k < bytes.length, readByte (loadBytes s base bytes).mem (base + k) = bytes.getD k 0) ∧
    (∀ a, a < base ∨ base + bytes.length ≤ a → readByte (loadBytes s base bytes).mem a = readByte s.mem a) ∧
    Memory.wf (loadBytes s base bytes).mem = true) ∧
  (∀ (s : State) (base : Nat) (bytes : List Byte),
    loadBytes s base bytes = { s with mem := (loadBytes s base bytes).mem }) ∧
  (∀ (s : State) (start : Word), setStart s start = { s with pc := start }) ∧
  ∀ cfg : Configuration, configure cfg = State.resetWith cfg [] 0 ∧ (configure cfg).cfg = cfg ∧
    atRest (configure cfg) = cfg.wf
end

