-- ==== Sys2Proof/Laws/Codec.lean ====
section
/-! SUPPORT. The codec: what each field of an encoded word reads as, and the fixed bits of a word. -/

namespace Sys2Proof

/-! ## Register format (R91) -/

theorem fieldOpcode_wordR (o : BitVec 6) (a b d : Reg) (f : BitVec 6) : fieldOpcode (wordR o a b d f) = o := by
  ext i hi
  simp only [fieldOpcode, wordR, BitVec.getElem_extractLsb', BitVec.getLsbD_append]
  interval_cases i <;> simp [BitVec.getLsbD_eq_getElem]

theorem fieldRs1_wordR (o : BitVec 6) (a b d : Reg) (f : BitVec 6) : fieldRs1 (wordR o a b d f) = a := by
  ext i hi
  simp only [fieldRs1, wordR, BitVec.getElem_extractLsb', BitVec.getLsbD_append]
  interval_cases i <;> simp [BitVec.getLsbD_eq_getElem]

theorem fieldRs2_wordR (o : BitVec 6) (a b d : Reg) (f : BitVec 6) : fieldRs2 (wordR o a b d f) = b := by
  ext i hi
  simp only [fieldRs2, wordR, BitVec.getElem_extractLsb', BitVec.getLsbD_append]
  interval_cases i <;> simp [BitVec.getLsbD_eq_getElem]

theorem fieldRdR_wordR (o : BitVec 6) (a b d : Reg) (f : BitVec 6) : fieldRdR (wordR o a b d f) = d := by
  ext i hi
  simp only [fieldRdR, wordR, BitVec.getElem_extractLsb', BitVec.getLsbD_append]
  interval_cases i <;> simp [BitVec.getLsbD_eq_getElem]

theorem fieldShamt_wordR (o : BitVec 6) (a b d : Reg) (f : BitVec 6) : fieldShamt (wordR o a b d f) = 0 := by
  ext i hi
  simp only [fieldShamt, wordR, BitVec.getElem_extractLsb', BitVec.getLsbD_append]
  interval_cases i <;> simp [BitVec.getLsbD_eq_getElem]

theorem fieldFunct_wordR (o : BitVec 6) (a b d : Reg) (f : BitVec 6) : fieldFunct (wordR o a b d f) = f := by
  ext i hi
  simp only [fieldFunct, wordR, BitVec.getElem_extractLsb', BitVec.getLsbD_append]
  interval_cases i <;> simp [BitVec.getLsbD_eq_getElem]

/-- The bits of a `wordR` word that no field can change. -/
theorem wordR_and_mask (o : BitVec 6) (a b d : Reg) (f : BitVec 6) : wordR o a b d f &&& 0xFC00003F#32 = wordR o 0 0 0 f := by
  apply BitVec.eq_of_getLsbD_eq
  intro i hi
  simp only [wordR, BitVec.getLsbD_and, BitVec.getLsbD_append]
  interval_cases i <;> simp [BitVec.getLsbD_eq_getElem]

/-! ## Immediate format (R92) -/

theorem fieldOpcode_wordI (o : BitVec 6) (a d : Reg) (m : BitVec 16) : fieldOpcode (wordI o a d m) = o := by
  ext i hi
  simp only [fieldOpcode, wordI, BitVec.getElem_extractLsb', BitVec.getLsbD_append]
  interval_cases i <;> simp [BitVec.getLsbD_eq_getElem]

theorem fieldRs1_wordI (o : BitVec 6) (a d : Reg) (m : BitVec 16) : fieldRs1 (wordI o a d m) = a := by
  ext i hi
  simp only [fieldRs1, wordI, BitVec.getElem_extractLsb', BitVec.getLsbD_append]
  interval_cases i <;> simp [BitVec.getLsbD_eq_getElem]

theorem fieldRdI_wordI (o : BitVec 6) (a d : Reg) (m : BitVec 16) : fieldRdI (wordI o a d m) = d := by
  ext i hi
  simp only [fieldRdI, wordI, BitVec.getElem_extractLsb', BitVec.getLsbD_append]
  interval_cases i <;> simp [BitVec.getLsbD_eq_getElem]

theorem fieldImm_wordI (o : BitVec 6) (a d : Reg) (m : BitVec 16) : fieldImm (wordI o a d m) = m := by
  ext i hi
  simp only [fieldImm, wordI, BitVec.getElem_extractLsb', BitVec.getLsbD_append]
  interval_cases i <;> simp [BitVec.getLsbD_eq_getElem]

/-- The bits of a `wordI` word that no field can change. -/
theorem wordI_and_mask (o : BitVec 6) (a d : Reg) (m : BitVec 16) : wordI o a d m &&& 0xFC000000#32 = wordI o 0 0 0 := by
  apply BitVec.eq_of_getLsbD_eq
  intro i hi
  simp only [wordI, BitVec.getLsbD_and, BitVec.getLsbD_append]
  interval_cases i <;> simp [BitVec.getLsbD_eq_getElem]

/-! ## Jump format (R93) -/

theorem fieldOpcode_wordJ (o : BitVec 6) (m : BitVec 26) : fieldOpcode (wordJ o m) = o := by
  ext i hi
  simp only [fieldOpcode, wordJ, BitVec.getElem_extractLsb', BitVec.getLsbD_append]
  interval_cases i <;> simp [BitVec.getLsbD_eq_getElem]

theorem fieldOffset_wordJ (o : BitVec 6) (m : BitVec 26) : fieldOffset (wordJ o m) = m := by
  ext i hi
  simp only [fieldOffset, wordJ, BitVec.getElem_extractLsb', BitVec.getLsbD_append]
  interval_cases i <;> simp [BitVec.getLsbD_eq_getElem]

/-- The bits of a `wordJ` word that no field can change. -/
theorem wordJ_and_mask (o : BitVec 6) (m : BitVec 26) : wordJ o m &&& 0xFC000000#32 = wordJ o 0 := by
  apply BitVec.eq_of_getLsbD_eq
  intro i hi
  simp only [wordJ, BitVec.getLsbD_and, BitVec.getLsbD_append]
  interval_cases i <;> simp [BitVec.getLsbD_eq_getElem]

/-! ## Bytes (R61) -/

/-- A word is the word of its bytes. -/
theorem wordOfBytes_bytes (w : Word) :
    wordOfBytes (w.extractLsb' 0 8) (w.extractLsb' 8 8) (w.extractLsb' 16 8) (w.extractLsb' 24 8) = w := by
  apply BitVec.eq_of_getLsbD_eq
  intro i hi
  simp only [wordOfBytes, BitVec.getLsbD_append, BitVec.getLsbD_extractLsb']
  interval_cases i <;> simp [BitVec.getLsbD_eq_getElem]

/-- Four bytes that spell an assigned word decode to its instruction. -/
theorem decode_of_decodeWord {w : Word} {i : Instr} (h : decodeWord w = some i) (rest : List Byte) :
    decode (bytesOfWord w ++ rest) = .instr i := by
  simp [decode, bytesOfWord, wordOfBytes_bytes, h]

end Sys2Proof
end

