-- ==== Sys2Proof/Laws/State.lean ====
section
/-! SUPPORT. One lemma per field per update of the state, so that no later proof unfolds a record update. -/

namespace Sys2Proof.Machine

/-! ## `writeReg` -/

@[simp] theorem State.writeReg_cfg (s : State) (i : Reg) (v : Word) : (s.writeReg i v).cfg = s.cfg := rfl
@[simp] theorem State.writeReg_regs (s : State) (i : Reg) (v : Word) : (s.writeReg i v).regs = fileSet s.regs i v := rfl
@[simp] theorem State.writeReg_fregs (s : State) (i : Reg) (v : Word) : (s.writeReg i v).fregs = s.fregs := rfl
@[simp] theorem State.writeReg_fps (s : State) (i : Reg) (v : Word) : (s.writeReg i v).fps = s.fps := rfl
@[simp] theorem State.writeReg_pc (s : State) (i : Reg) (v : Word) : (s.writeReg i v).pc = s.pc := rfl
@[simp] theorem State.writeReg_mem (s : State) (i : Reg) (v : Word) : (s.writeReg i v).mem = s.mem := rfl
@[simp] theorem State.writeReg_ifId (s : State) (i : Reg) (v : Word) : (s.writeReg i v).ifId = s.ifId := rfl
@[simp] theorem State.writeReg_idEx (s : State) (i : Reg) (v : Word) : (s.writeReg i v).idEx = s.idEx := rfl
@[simp] theorem State.writeReg_exMem (s : State) (i : Reg) (v : Word) : (s.writeReg i v).exMem = s.exMem := rfl
@[simp] theorem State.writeReg_memWb (s : State) (i : Reg) (v : Word) : (s.writeReg i v).memWb = s.memWb := rfl
@[simp] theorem State.writeReg_ui (s : State) (i : Reg) (v : Word) : (s.writeReg i v).ui = s.ui := rfl
@[simp] theorem State.writeReg_uf (s : State) (i : Reg) (v : Word) : (s.writeReg i v).uf = s.uf := rfl
@[simp] theorem State.writeReg_uc (s : State) (i : Reg) (v : Word) : (s.writeReg i v).uc = s.uc := rfl
@[simp] theorem State.writeReg_aluPool (s : State) (i : Reg) (v : Word) : (s.writeReg i v).aluPool = s.aluPool := rfl
@[simp] theorem State.writeReg_faddPool (s : State) (i : Reg) (v : Word) : (s.writeReg i v).faddPool = s.faddPool := rfl
@[simp] theorem State.writeReg_fmulPool (s : State) (i : Reg) (v : Word) : (s.writeReg i v).fmulPool = s.fmulPool := rfl
@[simp] theorem State.writeReg_fdivPool (s : State) (i : Reg) (v : Word) : (s.writeReg i v).fdivPool = s.fdivPool := rfl
@[simp] theorem State.writeReg_halted (s : State) (i : Reg) (v : Word) : (s.writeReg i v).halted = s.halted := rfl
@[simp] theorem State.writeReg_fatal (s : State) (i : Reg) (v : Word) : (s.writeReg i v).fatal = s.fatal := rfl
@[simp] theorem State.writeReg_stalled (s : State) (i : Reg) (v : Word) : (s.writeReg i v).stalled = s.stalled := rfl

/-! ## `writeF` -/

@[simp] theorem State.writeF_cfg (s : State) (i : Reg) (v : Word) : (s.writeF i v).cfg = s.cfg := rfl
@[simp] theorem State.writeF_regs (s : State) (i : Reg) (v : Word) : (s.writeF i v).regs = s.regs := rfl
@[simp] theorem State.writeF_fregs (s : State) (i : Reg) (v : Word) : (s.writeF i v).fregs = fileSet s.fregs i v := rfl
@[simp] theorem State.writeF_fps (s : State) (i : Reg) (v : Word) : (s.writeF i v).fps = s.fps := rfl
@[simp] theorem State.writeF_pc (s : State) (i : Reg) (v : Word) : (s.writeF i v).pc = s.pc := rfl
@[simp] theorem State.writeF_mem (s : State) (i : Reg) (v : Word) : (s.writeF i v).mem = s.mem := rfl
@[simp] theorem State.writeF_ifId (s : State) (i : Reg) (v : Word) : (s.writeF i v).ifId = s.ifId := rfl
@[simp] theorem State.writeF_idEx (s : State) (i : Reg) (v : Word) : (s.writeF i v).idEx = s.idEx := rfl
@[simp] theorem State.writeF_exMem (s : State) (i : Reg) (v : Word) : (s.writeF i v).exMem = s.exMem := rfl
@[simp] theorem State.writeF_memWb (s : State) (i : Reg) (v : Word) : (s.writeF i v).memWb = s.memWb := rfl
@[simp] theorem State.writeF_ui (s : State) (i : Reg) (v : Word) : (s.writeF i v).ui = s.ui := rfl
@[simp] theorem State.writeF_uf (s : State) (i : Reg) (v : Word) : (s.writeF i v).uf = s.uf := rfl
@[simp] theorem State.writeF_uc (s : State) (i : Reg) (v : Word) : (s.writeF i v).uc = s.uc := rfl
@[simp] theorem State.writeF_aluPool (s : State) (i : Reg) (v : Word) : (s.writeF i v).aluPool = s.aluPool := rfl
@[simp] theorem State.writeF_faddPool (s : State) (i : Reg) (v : Word) : (s.writeF i v).faddPool = s.faddPool := rfl
@[simp] theorem State.writeF_fmulPool (s : State) (i : Reg) (v : Word) : (s.writeF i v).fmulPool = s.fmulPool := rfl
@[simp] theorem State.writeF_fdivPool (s : State) (i : Reg) (v : Word) : (s.writeF i v).fdivPool = s.fdivPool := rfl
@[simp] theorem State.writeF_halted (s : State) (i : Reg) (v : Word) : (s.writeF i v).halted = s.halted := rfl
@[simp] theorem State.writeF_fatal (s : State) (i : Reg) (v : Word) : (s.writeF i v).fatal = s.fatal := rfl
@[simp] theorem State.writeF_stalled (s : State) (i : Reg) (v : Word) : (s.writeF i v).stalled = s.stalled := rfl

/-! ## `writeFD` -/

@[simp] theorem State.writeFD_cfg (s : State) (i : Reg) (v : DWord) : (s.writeFD i v).cfg = s.cfg := rfl
@[simp] theorem State.writeFD_regs (s : State) (i : Reg) (v : DWord) : (s.writeFD i v).regs = s.regs := rfl
@[simp] theorem State.writeFD_fregs (s : State) (i : Reg) (v : DWord) : (s.writeFD i v).fregs = fileSet (fileSet s.fregs i (lo32 v)) (i + 1) (hi32 v) := rfl
@[simp] theorem State.writeFD_fps (s : State) (i : Reg) (v : DWord) : (s.writeFD i v).fps = s.fps := rfl
@[simp] theorem State.writeFD_pc (s : State) (i : Reg) (v : DWord) : (s.writeFD i v).pc = s.pc := rfl
@[simp] theorem State.writeFD_mem (s : State) (i : Reg) (v : DWord) : (s.writeFD i v).mem = s.mem := rfl
@[simp] theorem State.writeFD_ifId (s : State) (i : Reg) (v : DWord) : (s.writeFD i v).ifId = s.ifId := rfl
@[simp] theorem State.writeFD_idEx (s : State) (i : Reg) (v : DWord) : (s.writeFD i v).idEx = s.idEx := rfl
@[simp] theorem State.writeFD_exMem (s : State) (i : Reg) (v : DWord) : (s.writeFD i v).exMem = s.exMem := rfl
@[simp] theorem State.writeFD_memWb (s : State) (i : Reg) (v : DWord) : (s.writeFD i v).memWb = s.memWb := rfl
@[simp] theorem State.writeFD_ui (s : State) (i : Reg) (v : DWord) : (s.writeFD i v).ui = s.ui := rfl
@[simp] theorem State.writeFD_uf (s : State) (i : Reg) (v : DWord) : (s.writeFD i v).uf = s.uf := rfl
@[simp] theorem State.writeFD_uc (s : State) (i : Reg) (v : DWord) : (s.writeFD i v).uc = s.uc := rfl
@[simp] theorem State.writeFD_aluPool (s : State) (i : Reg) (v : DWord) : (s.writeFD i v).aluPool = s.aluPool := rfl
@[simp] theorem State.writeFD_faddPool (s : State) (i : Reg) (v : DWord) : (s.writeFD i v).faddPool = s.faddPool := rfl
@[simp] theorem State.writeFD_fmulPool (s : State) (i : Reg) (v : DWord) : (s.writeFD i v).fmulPool = s.fmulPool := rfl
@[simp] theorem State.writeFD_fdivPool (s : State) (i : Reg) (v : DWord) : (s.writeFD i v).fdivPool = s.fdivPool := rfl
@[simp] theorem State.writeFD_halted (s : State) (i : Reg) (v : DWord) : (s.writeFD i v).halted = s.halted := rfl
@[simp] theorem State.writeFD_fatal (s : State) (i : Reg) (v : DWord) : (s.writeFD i v).fatal = s.fatal := rfl
@[simp] theorem State.writeFD_stalled (s : State) (i : Reg) (v : DWord) : (s.writeFD i v).stalled = s.stalled := rfl

/-! ## `writeFps` -/

@[simp] theorem State.writeFps_cfg (s : State) (b : Bool) : (s.writeFps b).cfg = s.cfg := rfl
@[simp] theorem State.writeFps_regs (s : State) (b : Bool) : (s.writeFps b).regs = s.regs := rfl
@[simp] theorem State.writeFps_fregs (s : State) (b : Bool) : (s.writeFps b).fregs = s.fregs := rfl
@[simp] theorem State.writeFps_fps (s : State) (b : Bool) : (s.writeFps b).fps = b := rfl
@[simp] theorem State.writeFps_pc (s : State) (b : Bool) : (s.writeFps b).pc = s.pc := rfl
@[simp] theorem State.writeFps_mem (s : State) (b : Bool) : (s.writeFps b).mem = s.mem := rfl
@[simp] theorem State.writeFps_ifId (s : State) (b : Bool) : (s.writeFps b).ifId = s.ifId := rfl
@[simp] theorem State.writeFps_idEx (s : State) (b : Bool) : (s.writeFps b).idEx = s.idEx := rfl
@[simp] theorem State.writeFps_exMem (s : State) (b : Bool) : (s.writeFps b).exMem = s.exMem := rfl
@[simp] theorem State.writeFps_memWb (s : State) (b : Bool) : (s.writeFps b).memWb = s.memWb := rfl
@[simp] theorem State.writeFps_ui (s : State) (b : Bool) : (s.writeFps b).ui = s.ui := rfl
@[simp] theorem State.writeFps_uf (s : State) (b : Bool) : (s.writeFps b).uf = s.uf := rfl
@[simp] theorem State.writeFps_uc (s : State) (b : Bool) : (s.writeFps b).uc = s.uc := rfl
@[simp] theorem State.writeFps_aluPool (s : State) (b : Bool) : (s.writeFps b).aluPool = s.aluPool := rfl
@[simp] theorem State.writeFps_faddPool (s : State) (b : Bool) : (s.writeFps b).faddPool = s.faddPool := rfl
@[simp] theorem State.writeFps_fmulPool (s : State) (b : Bool) : (s.writeFps b).fmulPool = s.fmulPool := rfl
@[simp] theorem State.writeFps_fdivPool (s : State) (b : Bool) : (s.writeFps b).fdivPool = s.fdivPool := rfl
@[simp] theorem State.writeFps_halted (s : State) (b : Bool) : (s.writeFps b).halted = s.halted := rfl
@[simp] theorem State.writeFps_fatal (s : State) (b : Bool) : (s.writeFps b).fatal = s.fatal := rfl
@[simp] theorem State.writeFps_stalled (s : State) (b : Bool) : (s.writeFps b).stalled = s.stalled := rfl

/-! ## `setPc` -/

@[simp] theorem State.setPc_cfg (s : State) (v : Word) : (s.setPc v).cfg = s.cfg := rfl
@[simp] theorem State.setPc_regs (s : State) (v : Word) : (s.setPc v).regs = s.regs := rfl
@[simp] theorem State.setPc_fregs (s : State) (v : Word) : (s.setPc v).fregs = s.fregs := rfl
@[simp] theorem State.setPc_fps (s : State) (v : Word) : (s.setPc v).fps = s.fps := rfl
@[simp] theorem State.setPc_pc (s : State) (v : Word) : (s.setPc v).pc = v := rfl
@[simp] theorem State.setPc_mem (s : State) (v : Word) : (s.setPc v).mem = s.mem := rfl
@[simp] theorem State.setPc_ifId (s : State) (v : Word) : (s.setPc v).ifId = s.ifId := rfl
@[simp] theorem State.setPc_idEx (s : State) (v : Word) : (s.setPc v).idEx = s.idEx := rfl
@[simp] theorem State.setPc_exMem (s : State) (v : Word) : (s.setPc v).exMem = s.exMem := rfl
@[simp] theorem State.setPc_memWb (s : State) (v : Word) : (s.setPc v).memWb = s.memWb := rfl
@[simp] theorem State.setPc_ui (s : State) (v : Word) : (s.setPc v).ui = s.ui := rfl
@[simp] theorem State.setPc_uf (s : State) (v : Word) : (s.setPc v).uf = s.uf := rfl
@[simp] theorem State.setPc_uc (s : State) (v : Word) : (s.setPc v).uc = s.uc := rfl
@[simp] theorem State.setPc_aluPool (s : State) (v : Word) : (s.setPc v).aluPool = s.aluPool := rfl
@[simp] theorem State.setPc_faddPool (s : State) (v : Word) : (s.setPc v).faddPool = s.faddPool := rfl
@[simp] theorem State.setPc_fmulPool (s : State) (v : Word) : (s.setPc v).fmulPool = s.fmulPool := rfl
@[simp] theorem State.setPc_fdivPool (s : State) (v : Word) : (s.setPc v).fdivPool = s.fdivPool := rfl
@[simp] theorem State.setPc_halted (s : State) (v : Word) : (s.setPc v).halted = s.halted := rfl
@[simp] theorem State.setPc_fatal (s : State) (v : Word) : (s.setPc v).fatal = s.fatal := rfl
@[simp] theorem State.setPc_stalled (s : State) (v : Word) : (s.setPc v).stalled = s.stalled := rfl

/-! ## `advance` -/

@[simp] theorem State.advance_cfg (s : State) : (s.advance).cfg = s.cfg := rfl
@[simp] theorem State.advance_regs (s : State) : (s.advance).regs = s.regs := rfl
@[simp] theorem State.advance_fregs (s : State) : (s.advance).fregs = s.fregs := rfl
@[simp] theorem State.advance_fps (s : State) : (s.advance).fps = s.fps := rfl
@[simp] theorem State.advance_pc (s : State) : (s.advance).pc = s.pc + 4 := rfl
@[simp] theorem State.advance_mem (s : State) : (s.advance).mem = s.mem := rfl
@[simp] theorem State.advance_ifId (s : State) : (s.advance).ifId = s.ifId := rfl
@[simp] theorem State.advance_idEx (s : State) : (s.advance).idEx = s.idEx := rfl
@[simp] theorem State.advance_exMem (s : State) : (s.advance).exMem = s.exMem := rfl
@[simp] theorem State.advance_memWb (s : State) : (s.advance).memWb = s.memWb := rfl
@[simp] theorem State.advance_ui (s : State) : (s.advance).ui = s.ui := rfl
@[simp] theorem State.advance_uf (s : State) : (s.advance).uf = s.uf := rfl
@[simp] theorem State.advance_uc (s : State) : (s.advance).uc = s.uc := rfl
@[simp] theorem State.advance_aluPool (s : State) : (s.advance).aluPool = s.aluPool := rfl
@[simp] theorem State.advance_faddPool (s : State) : (s.advance).faddPool = s.faddPool := rfl
@[simp] theorem State.advance_fmulPool (s : State) : (s.advance).fmulPool = s.fmulPool := rfl
@[simp] theorem State.advance_fdivPool (s : State) : (s.advance).fdivPool = s.fdivPool := rfl
@[simp] theorem State.advance_halted (s : State) : (s.advance).halted = s.halted := rfl
@[simp] theorem State.advance_fatal (s : State) : (s.advance).fatal = s.fatal := rfl
@[simp] theorem State.advance_stalled (s : State) : (s.advance).stalled = s.stalled := rfl

/-! ## `halt` -/

@[simp] theorem State.halt_cfg (s : State) : (s.halt).cfg = s.cfg := rfl
@[simp] theorem State.halt_regs (s : State) : (s.halt).regs = s.regs := rfl
@[simp] theorem State.halt_fregs (s : State) : (s.halt).fregs = s.fregs := rfl
@[simp] theorem State.halt_fps (s : State) : (s.halt).fps = s.fps := rfl
@[simp] theorem State.halt_pc (s : State) : (s.halt).pc = s.pc := rfl
@[simp] theorem State.halt_mem (s : State) : (s.halt).mem = s.mem := rfl
@[simp] theorem State.halt_ifId (s : State) : (s.halt).ifId = s.ifId := rfl
@[simp] theorem State.halt_idEx (s : State) : (s.halt).idEx = s.idEx := rfl
@[simp] theorem State.halt_exMem (s : State) : (s.halt).exMem = s.exMem := rfl
@[simp] theorem State.halt_memWb (s : State) : (s.halt).memWb = s.memWb := rfl
@[simp] theorem State.halt_ui (s : State) : (s.halt).ui = s.ui := rfl
@[simp] theorem State.halt_uf (s : State) : (s.halt).uf = s.uf := rfl
@[simp] theorem State.halt_uc (s : State) : (s.halt).uc = s.uc := rfl
@[simp] theorem State.halt_aluPool (s : State) : (s.halt).aluPool = s.aluPool := rfl
@[simp] theorem State.halt_faddPool (s : State) : (s.halt).faddPool = s.faddPool := rfl
@[simp] theorem State.halt_fmulPool (s : State) : (s.halt).fmulPool = s.fmulPool := rfl
@[simp] theorem State.halt_fdivPool (s : State) : (s.halt).fdivPool = s.fdivPool := rfl
@[simp] theorem State.halt_halted (s : State) : (s.halt).halted = true := rfl
@[simp] theorem State.halt_fatal (s : State) : (s.halt).fatal = s.fatal := rfl
@[simp] theorem State.halt_stalled (s : State) : (s.halt).stalled = s.stalled := rfl

/-! ## `endExecuteStall` -/

@[simp] theorem endExecuteStall_cfg (w : MemWb) (s : State) : (endExecuteStall w s).cfg = s.cfg := rfl
@[simp] theorem endExecuteStall_regs (w : MemWb) (s : State) : (endExecuteStall w s).regs = s.regs := rfl
@[simp] theorem endExecuteStall_fregs (w : MemWb) (s : State) : (endExecuteStall w s).fregs = s.fregs := rfl
@[simp] theorem endExecuteStall_fps (w : MemWb) (s : State) : (endExecuteStall w s).fps = s.fps := rfl
@[simp] theorem endExecuteStall_pc (w : MemWb) (s : State) : (endExecuteStall w s).pc = s.pc := rfl
@[simp] theorem endExecuteStall_mem (w : MemWb) (s : State) : (endExecuteStall w s).mem = s.mem := rfl
@[simp] theorem endExecuteStall_ifId (w : MemWb) (s : State) : (endExecuteStall w s).ifId = s.ifId := rfl
@[simp] theorem endExecuteStall_idEx (w : MemWb) (s : State) : (endExecuteStall w s).idEx = s.idEx := rfl
@[simp] theorem endExecuteStall_exMem (w : MemWb) (s : State) : (endExecuteStall w s).exMem = nopExMem := rfl
@[simp] theorem endExecuteStall_memWb (w : MemWb) (s : State) : (endExecuteStall w s).memWb = w := rfl
@[simp] theorem endExecuteStall_ui (w : MemWb) (s : State) : (endExecuteStall w s).ui = s.ui := rfl
@[simp] theorem endExecuteStall_uf (w : MemWb) (s : State) : (endExecuteStall w s).uf = s.uf := rfl
@[simp] theorem endExecuteStall_uc (w : MemWb) (s : State) : (endExecuteStall w s).uc = s.uc := rfl
@[simp] theorem endExecuteStall_aluPool (w : MemWb) (s : State) : (endExecuteStall w s).aluPool = s.aluPool := rfl
@[simp] theorem endExecuteStall_faddPool (w : MemWb) (s : State) : (endExecuteStall w s).faddPool = s.faddPool := rfl
@[simp] theorem endExecuteStall_fmulPool (w : MemWb) (s : State) : (endExecuteStall w s).fmulPool = s.fmulPool := rfl
@[simp] theorem endExecuteStall_fdivPool (w : MemWb) (s : State) : (endExecuteStall w s).fdivPool = s.fdivPool := rfl
@[simp] theorem endExecuteStall_halted (w : MemWb) (s : State) : (endExecuteStall w s).halted = s.halted := rfl
@[simp] theorem endExecuteStall_fatal (w : MemWb) (s : State) : (endExecuteStall w s).fatal = s.fatal := rfl
@[simp] theorem endExecuteStall_stalled (w : MemWb) (s : State) : (endExecuteStall w s).stalled = true := rfl

/-! ## `endDecodeStall` -/

@[simp] theorem endDecodeStall_cfg (w : MemWb) (x : ExMem) (s : State) : (endDecodeStall w x s).cfg = s.cfg := rfl
@[simp] theorem endDecodeStall_regs (w : MemWb) (x : ExMem) (s : State) : (endDecodeStall w x s).regs = s.regs := rfl
@[simp] theorem endDecodeStall_fregs (w : MemWb) (x : ExMem) (s : State) : (endDecodeStall w x s).fregs = s.fregs := rfl
@[simp] theorem endDecodeStall_fps (w : MemWb) (x : ExMem) (s : State) : (endDecodeStall w x s).fps = s.fps := rfl
@[simp] theorem endDecodeStall_pc (w : MemWb) (x : ExMem) (s : State) : (endDecodeStall w x s).pc = s.pc := rfl
@[simp] theorem endDecodeStall_mem (w : MemWb) (x : ExMem) (s : State) : (endDecodeStall w x s).mem = s.mem := rfl
@[simp] theorem endDecodeStall_ifId (w : MemWb) (x : ExMem) (s : State) : (endDecodeStall w x s).ifId = s.ifId := rfl
@[simp] theorem endDecodeStall_idEx (w : MemWb) (x : ExMem) (s : State) : (endDecodeStall w x s).idEx = nopIdEx := rfl
@[simp] theorem endDecodeStall_exMem (w : MemWb) (x : ExMem) (s : State) : (endDecodeStall w x s).exMem = x := rfl
@[simp] theorem endDecodeStall_memWb (w : MemWb) (x : ExMem) (s : State) : (endDecodeStall w x s).memWb = w := rfl
@[simp] theorem endDecodeStall_ui (w : MemWb) (x : ExMem) (s : State) : (endDecodeStall w x s).ui = s.ui := rfl
@[simp] theorem endDecodeStall_uf (w : MemWb) (x : ExMem) (s : State) : (endDecodeStall w x s).uf = s.uf := rfl
@[simp] theorem endDecodeStall_uc (w : MemWb) (x : ExMem) (s : State) : (endDecodeStall w x s).uc = s.uc := rfl
@[simp] theorem endDecodeStall_aluPool (w : MemWb) (x : ExMem) (s : State) : (endDecodeStall w x s).aluPool = s.aluPool := rfl
@[simp] theorem endDecodeStall_faddPool (w : MemWb) (x : ExMem) (s : State) : (endDecodeStall w x s).faddPool = s.faddPool := rfl
@[simp] theorem endDecodeStall_fmulPool (w : MemWb) (x : ExMem) (s : State) : (endDecodeStall w x s).fmulPool = s.fmulPool := rfl
@[simp] theorem endDecodeStall_fdivPool (w : MemWb) (x : ExMem) (s : State) : (endDecodeStall w x s).fdivPool = s.fdivPool := rfl
@[simp] theorem endDecodeStall_halted (w : MemWb) (x : ExMem) (s : State) : (endDecodeStall w x s).halted = s.halted := rfl
@[simp] theorem endDecodeStall_fatal (w : MemWb) (x : ExMem) (s : State) : (endDecodeStall w x s).fatal = s.fatal := rfl
@[simp] theorem endDecodeStall_stalled (w : MemWb) (x : ExMem) (s : State) : (endDecodeStall w x s).stalled = true := rfl

/-! ## `endFetched` -/

@[simp] theorem endFetched_cfg (w : MemWb) (x : ExMem) (y : IdEx) (z : IfId) (s : State) : (endFetched w x y z s).cfg = s.cfg := rfl
@[simp] theorem endFetched_regs (w : MemWb) (x : ExMem) (y : IdEx) (z : IfId) (s : State) : (endFetched w x y z s).regs = s.regs := rfl
@[simp] theorem endFetched_fregs (w : MemWb) (x : ExMem) (y : IdEx) (z : IfId) (s : State) : (endFetched w x y z s).fregs = s.fregs := rfl
@[simp] theorem endFetched_fps (w : MemWb) (x : ExMem) (y : IdEx) (z : IfId) (s : State) : (endFetched w x y z s).fps = s.fps := rfl
@[simp] theorem endFetched_pc (w : MemWb) (x : ExMem) (y : IdEx) (z : IfId) (s : State) : (endFetched w x y z s).pc = s.pc + 4 := rfl
@[simp] theorem endFetched_mem (w : MemWb) (x : ExMem) (y : IdEx) (z : IfId) (s : State) : (endFetched w x y z s).mem = s.mem := rfl
@[simp] theorem endFetched_ifId (w : MemWb) (x : ExMem) (y : IdEx) (z : IfId) (s : State) : (endFetched w x y z s).ifId = z := rfl
@[simp] theorem endFetched_idEx (w : MemWb) (x : ExMem) (y : IdEx) (z : IfId) (s : State) : (endFetched w x y z s).idEx = y := rfl
@[simp] theorem endFetched_exMem (w : MemWb) (x : ExMem) (y : IdEx) (z : IfId) (s : State) : (endFetched w x y z s).exMem = x := rfl
@[simp] theorem endFetched_memWb (w : MemWb) (x : ExMem) (y : IdEx) (z : IfId) (s : State) : (endFetched w x y z s).memWb = w := rfl
@[simp] theorem endFetched_ui (w : MemWb) (x : ExMem) (y : IdEx) (z : IfId) (s : State) : (endFetched w x y z s).ui = s.ui := rfl
@[simp] theorem endFetched_uf (w : MemWb) (x : ExMem) (y : IdEx) (z : IfId) (s : State) : (endFetched w x y z s).uf = s.uf := rfl
@[simp] theorem endFetched_uc (w : MemWb) (x : ExMem) (y : IdEx) (z : IfId) (s : State) : (endFetched w x y z s).uc = s.uc := rfl
@[simp] theorem endFetched_aluPool (w : MemWb) (x : ExMem) (y : IdEx) (z : IfId) (s : State) : (endFetched w x y z s).aluPool = s.aluPool := rfl
@[simp] theorem endFetched_faddPool (w : MemWb) (x : ExMem) (y : IdEx) (z : IfId) (s : State) : (endFetched w x y z s).faddPool = s.faddPool := rfl
@[simp] theorem endFetched_fmulPool (w : MemWb) (x : ExMem) (y : IdEx) (z : IfId) (s : State) : (endFetched w x y z s).fmulPool = s.fmulPool := rfl
@[simp] theorem endFetched_fdivPool (w : MemWb) (x : ExMem) (y : IdEx) (z : IfId) (s : State) : (endFetched w x y z s).fdivPool = s.fdivPool := rfl
@[simp] theorem endFetched_halted (w : MemWb) (x : ExMem) (y : IdEx) (z : IfId) (s : State) : (endFetched w x y z s).halted = s.halted := rfl
@[simp] theorem endFetched_fatal (w : MemWb) (x : ExMem) (y : IdEx) (z : IfId) (s : State) : (endFetched w x y z s).fatal = s.fatal := rfl
@[simp] theorem endFetched_stalled (w : MemWb) (x : ExMem) (y : IdEx) (z : IfId) (s : State) : (endFetched w x y z s).stalled = false := rfl

/-! ## `executePhase1` -/

@[simp] theorem executePhase1_cfg (s : State) : (executePhase1 s).1.cfg = s.cfg := rfl
@[simp] theorem executePhase1_regs (s : State) : (executePhase1 s).1.regs = s.regs := rfl
@[simp] theorem executePhase1_fregs (s : State) : (executePhase1 s).1.fregs = s.fregs := rfl
@[simp] theorem executePhase1_fps (s : State) : (executePhase1 s).1.fps = s.fps := rfl
@[simp] theorem executePhase1_pc (s : State) : (executePhase1 s).1.pc = s.pc := rfl
@[simp] theorem executePhase1_mem (s : State) : (executePhase1 s).1.mem = s.mem := rfl
@[simp] theorem executePhase1_ifId (s : State) : (executePhase1 s).1.ifId = s.ifId := rfl
@[simp] theorem executePhase1_idEx (s : State) : (executePhase1 s).1.idEx = s.idEx := rfl
@[simp] theorem executePhase1_exMem (s : State) : (executePhase1 s).1.exMem = s.exMem := rfl
@[simp] theorem executePhase1_memWb (s : State) : (executePhase1 s).1.memWb = s.memWb := rfl
@[simp] theorem executePhase1_ui (s : State) : (executePhase1 s).1.ui = s.ui := rfl
@[simp] theorem executePhase1_uf (s : State) : (executePhase1 s).1.uf = s.uf := rfl
@[simp] theorem executePhase1_uc (s : State) : (executePhase1 s).1.uc = s.uc := rfl
@[simp] theorem executePhase1_aluPool (s : State) : (executePhase1 s).1.aluPool = (unloadPool (tickPool s.aluPool)).2 := rfl
@[simp] theorem executePhase1_faddPool (s : State) : (executePhase1 s).1.faddPool = (unloadPool (tickPool s.faddPool)).2 := rfl
@[simp] theorem executePhase1_fmulPool (s : State) : (executePhase1 s).1.fmulPool = (unloadPool (tickPool s.fmulPool)).2 := rfl
@[simp] theorem executePhase1_fdivPool (s : State) : (executePhase1 s).1.fdivPool = (unloadPool (tickPool s.fdivPool)).2 := rfl
@[simp] theorem executePhase1_halted (s : State) : (executePhase1 s).1.halted = s.halted := rfl
@[simp] theorem executePhase1_fatal (s : State) : (executePhase1 s).1.fatal = s.fatal := rfl
@[simp] theorem executePhase1_stalled (s : State) : (executePhase1 s).1.stalled = s.stalled := rfl

/-! ## Updates that choose by tag, slot or class -/

@[simp] theorem State.setMarker_cfg (s : State) (sl : Slot) (b : Bool) : (s.setMarker sl b).cfg = s.cfg := by cases sl <;> rfl
@[simp] theorem State.setMarker_regs (s : State) (sl : Slot) (b : Bool) : (s.setMarker sl b).regs = s.regs := by cases sl <;> rfl
@[simp] theorem State.setMarker_fregs (s : State) (sl : Slot) (b : Bool) : (s.setMarker sl b).fregs = s.fregs := by cases sl <;> rfl
@[simp] theorem State.setMarker_fps (s : State) (sl : Slot) (b : Bool) : (s.setMarker sl b).fps = s.fps := by cases sl <;> rfl
@[simp] theorem State.setMarker_pc (s : State) (sl : Slot) (b : Bool) : (s.setMarker sl b).pc = s.pc := by cases sl <;> rfl
@[simp] theorem State.setMarker_mem (s : State) (sl : Slot) (b : Bool) : (s.setMarker sl b).mem = s.mem := by cases sl <;> rfl
@[simp] theorem State.setMarker_ifId (s : State) (sl : Slot) (b : Bool) : (s.setMarker sl b).ifId = s.ifId := by cases sl <;> rfl
@[simp] theorem State.setMarker_idEx (s : State) (sl : Slot) (b : Bool) : (s.setMarker sl b).idEx = s.idEx := by cases sl <;> rfl
@[simp] theorem State.setMarker_exMem (s : State) (sl : Slot) (b : Bool) : (s.setMarker sl b).exMem = s.exMem := by cases sl <;> rfl
@[simp] theorem State.setMarker_memWb (s : State) (sl : Slot) (b : Bool) : (s.setMarker sl b).memWb = s.memWb := by cases sl <;> rfl
@[simp] theorem State.setMarker_aluPool (s : State) (sl : Slot) (b : Bool) : (s.setMarker sl b).aluPool = s.aluPool := by cases sl <;> rfl
@[simp] theorem State.setMarker_faddPool (s : State) (sl : Slot) (b : Bool) : (s.setMarker sl b).faddPool = s.faddPool := by cases sl <;> rfl
@[simp] theorem State.setMarker_fmulPool (s : State) (sl : Slot) (b : Bool) : (s.setMarker sl b).fmulPool = s.fmulPool := by cases sl <;> rfl
@[simp] theorem State.setMarker_fdivPool (s : State) (sl : Slot) (b : Bool) : (s.setMarker sl b).fdivPool = s.fdivPool := by cases sl <;> rfl
@[simp] theorem State.setMarker_halted (s : State) (sl : Slot) (b : Bool) : (s.setMarker sl b).halted = s.halted := by cases sl <;> rfl
@[simp] theorem State.setMarker_fatal (s : State) (sl : Slot) (b : Bool) : (s.setMarker sl b).fatal = s.fatal := by cases sl <;> rfl
@[simp] theorem State.setMarker_stalled (s : State) (sl : Slot) (b : Bool) : (s.setMarker sl b).stalled = s.stalled := by cases sl <;> rfl

@[simp] theorem State.setPool_cfg (s : State) (k : UnitClass) (p : List FuncUnit) : (s.setPool k p).cfg = s.cfg := by cases k <;> rfl
@[simp] theorem State.setPool_regs (s : State) (k : UnitClass) (p : List FuncUnit) : (s.setPool k p).regs = s.regs := by cases k <;> rfl
@[simp] theorem State.setPool_fregs (s : State) (k : UnitClass) (p : List FuncUnit) : (s.setPool k p).fregs = s.fregs := by cases k <;> rfl
@[simp] theorem State.setPool_fps (s : State) (k : UnitClass) (p : List FuncUnit) : (s.setPool k p).fps = s.fps := by cases k <;> rfl
@[simp] theorem State.setPool_pc (s : State) (k : UnitClass) (p : List FuncUnit) : (s.setPool k p).pc = s.pc := by cases k <;> rfl
@[simp] theorem State.setPool_mem (s : State) (k : UnitClass) (p : List FuncUnit) : (s.setPool k p).mem = s.mem := by cases k <;> rfl
@[simp] theorem State.setPool_ifId (s : State) (k : UnitClass) (p : List FuncUnit) : (s.setPool k p).ifId = s.ifId := by cases k <;> rfl
@[simp] theorem State.setPool_idEx (s : State) (k : UnitClass) (p : List FuncUnit) : (s.setPool k p).idEx = s.idEx := by cases k <;> rfl
@[simp] theorem State.setPool_exMem (s : State) (k : UnitClass) (p : List FuncUnit) : (s.setPool k p).exMem = s.exMem := by cases k <;> rfl
@[simp] theorem State.setPool_memWb (s : State) (k : UnitClass) (p : List FuncUnit) : (s.setPool k p).memWb = s.memWb := by cases k <;> rfl
@[simp] theorem State.setPool_ui (s : State) (k : UnitClass) (p : List FuncUnit) : (s.setPool k p).ui = s.ui := by cases k <;> rfl
@[simp] theorem State.setPool_uf (s : State) (k : UnitClass) (p : List FuncUnit) : (s.setPool k p).uf = s.uf := by cases k <;> rfl
@[simp] theorem State.setPool_uc (s : State) (k : UnitClass) (p : List FuncUnit) : (s.setPool k p).uc = s.uc := by cases k <;> rfl
@[simp] theorem State.setPool_halted (s : State) (k : UnitClass) (p : List FuncUnit) : (s.setPool k p).halted = s.halted := by cases k <;> rfl
@[simp] theorem State.setPool_fatal (s : State) (k : UnitClass) (p : List FuncUnit) : (s.setPool k p).fatal = s.fatal := by cases k <;> rfl
@[simp] theorem State.setPool_stalled (s : State) (k : UnitClass) (p : List FuncUnit) : (s.setPool k p).stalled = s.stalled := by cases k <;> rfl

@[simp] theorem State.writeTag_cfg (s : State) (t : Tag) (v : DWord) : (s.writeTag t v).cfg = s.cfg := by cases t <;> rfl
@[simp] theorem State.writeTag_pc (s : State) (t : Tag) (v : DWord) : (s.writeTag t v).pc = s.pc := by cases t <;> rfl
@[simp] theorem State.writeTag_mem (s : State) (t : Tag) (v : DWord) : (s.writeTag t v).mem = s.mem := by cases t <;> rfl
@[simp] theorem State.writeTag_ifId (s : State) (t : Tag) (v : DWord) : (s.writeTag t v).ifId = s.ifId := by cases t <;> rfl
@[simp] theorem State.writeTag_idEx (s : State) (t : Tag) (v : DWord) : (s.writeTag t v).idEx = s.idEx := by cases t <;> rfl
@[simp] theorem State.writeTag_exMem (s : State) (t : Tag) (v : DWord) : (s.writeTag t v).exMem = s.exMem := by cases t <;> rfl
@[simp] theorem State.writeTag_memWb (s : State) (t : Tag) (v : DWord) : (s.writeTag t v).memWb = s.memWb := by cases t <;> rfl
@[simp] theorem State.writeTag_ui (s : State) (t : Tag) (v : DWord) : (s.writeTag t v).ui = s.ui := by cases t <;> rfl
@[simp] theorem State.writeTag_uf (s : State) (t : Tag) (v : DWord) : (s.writeTag t v).uf = s.uf := by cases t <;> rfl
@[simp] theorem State.writeTag_uc (s : State) (t : Tag) (v : DWord) : (s.writeTag t v).uc = s.uc := by cases t <;> rfl
@[simp] theorem State.writeTag_aluPool (s : State) (t : Tag) (v : DWord) : (s.writeTag t v).aluPool = s.aluPool := by cases t <;> rfl
@[simp] theorem State.writeTag_faddPool (s : State) (t : Tag) (v : DWord) : (s.writeTag t v).faddPool = s.faddPool := by cases t <;> rfl
@[simp] theorem State.writeTag_fmulPool (s : State) (t : Tag) (v : DWord) : (s.writeTag t v).fmulPool = s.fmulPool := by cases t <;> rfl
@[simp] theorem State.writeTag_fdivPool (s : State) (t : Tag) (v : DWord) : (s.writeTag t v).fdivPool = s.fdivPool := by cases t <;> rfl
@[simp] theorem State.writeTag_halted (s : State) (t : Tag) (v : DWord) : (s.writeTag t v).halted = s.halted := by cases t <;> rfl
@[simp] theorem State.writeTag_fatal (s : State) (t : Tag) (v : DWord) : (s.writeTag t v).fatal = s.fatal := by cases t <;> rfl
@[simp] theorem State.writeTag_stalled (s : State) (t : Tag) (v : DWord) : (s.writeTag t v).stalled = s.stalled := by cases t <;> rfl

@[simp] theorem State.setMarkers_cfg (s : State) (l : List Slot) (b : Bool) : (s.setMarkers l b).cfg = s.cfg := by
  induction l generalizing s with
  | nil => rfl
  | cons sl l ih => rw [State.setMarkers, ih, State.setMarker_cfg]
@[simp] theorem State.setMarkers_regs (s : State) (l : List Slot) (b : Bool) : (s.setMarkers l b).regs = s.regs := by
  induction l generalizing s with
  | nil => rfl
  | cons sl l ih => rw [State.setMarkers, ih, State.setMarker_regs]
@[simp] theorem State.setMarkers_fregs (s : State) (l : List Slot) (b : Bool) : (s.setMarkers l b).fregs = s.fregs := by
  induction l generalizing s with
  | nil => rfl
  | cons sl l ih => rw [State.setMarkers, ih, State.setMarker_fregs]
@[simp] theorem State.setMarkers_fps (s : State) (l : List Slot) (b : Bool) : (s.setMarkers l b).fps = s.fps := by
  induction l generalizing s with
  | nil => rfl
  | cons sl l ih => rw [State.setMarkers, ih, State.setMarker_fps]
@[simp] theorem State.setMarkers_pc (s : State) (l : List Slot) (b : Bool) : (s.setMarkers l b).pc = s.pc := by
  induction l generalizing s with
  | nil => rfl
  | cons sl l ih => rw [State.setMarkers, ih, State.setMarker_pc]
@[simp] theorem State.setMarkers_mem (s : State) (l : List Slot) (b : Bool) : (s.setMarkers l b).mem = s.mem := by
  induction l generalizing s with
  | nil => rfl
  | cons sl l ih => rw [State.setMarkers, ih, State.setMarker_mem]
@[simp] theorem State.setMarkers_ifId (s : State) (l : List Slot) (b : Bool) : (s.setMarkers l b).ifId = s.ifId := by
  induction l generalizing s with
  | nil => rfl
  | cons sl l ih => rw [State.setMarkers, ih, State.setMarker_ifId]
@[simp] theorem State.setMarkers_idEx (s : State) (l : List Slot) (b : Bool) : (s.setMarkers l b).idEx = s.idEx := by
  induction l generalizing s with
  | nil => rfl
  | cons sl l ih => rw [State.setMarkers, ih, State.setMarker_idEx]
@[simp] theorem State.setMarkers_exMem (s : State) (l : List Slot) (b : Bool) : (s.setMarkers l b).exMem = s.exMem := by
  induction l generalizing s with
  | nil => rfl
  | cons sl l ih => rw [State.setMarkers, ih, State.setMarker_exMem]
@[simp] theorem State.setMarkers_memWb (s : State) (l : List Slot) (b : Bool) : (s.setMarkers l b).memWb = s.memWb := by
  induction l generalizing s with
  | nil => rfl
  | cons sl l ih => rw [State.setMarkers, ih, State.setMarker_memWb]
@[simp] theorem State.setMarkers_aluPool (s : State) (l : List Slot) (b : Bool) : (s.setMarkers l b).aluPool = s.aluPool := by
  induction l generalizing s with
  | nil => rfl
  | cons sl l ih => rw [State.setMarkers, ih, State.setMarker_aluPool]
@[simp] theorem State.setMarkers_faddPool (s : State) (l : List Slot) (b : Bool) : (s.setMarkers l b).faddPool = s.faddPool := by
  induction l generalizing s with
  | nil => rfl
  | cons sl l ih => rw [State.setMarkers, ih, State.setMarker_faddPool]
@[simp] theorem State.setMarkers_fmulPool (s : State) (l : List Slot) (b : Bool) : (s.setMarkers l b).fmulPool = s.fmulPool := by
  induction l generalizing s with
  | nil => rfl
  | cons sl l ih => rw [State.setMarkers, ih, State.setMarker_fmulPool]
@[simp] theorem State.setMarkers_fdivPool (s : State) (l : List Slot) (b : Bool) : (s.setMarkers l b).fdivPool = s.fdivPool := by
  induction l generalizing s with
  | nil => rfl
  | cons sl l ih => rw [State.setMarkers, ih, State.setMarker_fdivPool]
@[simp] theorem State.setMarkers_halted (s : State) (l : List Slot) (b : Bool) : (s.setMarkers l b).halted = s.halted := by
  induction l generalizing s with
  | nil => rfl
  | cons sl l ih => rw [State.setMarkers, ih, State.setMarker_halted]
@[simp] theorem State.setMarkers_fatal (s : State) (l : List Slot) (b : Bool) : (s.setMarkers l b).fatal = s.fatal := by
  induction l generalizing s with
  | nil => rfl
  | cons sl l ih => rw [State.setMarkers, ih, State.setMarker_fatal]
@[simp] theorem State.setMarkers_stalled (s : State) (l : List Slot) (b : Bool) : (s.setMarkers l b).stalled = s.stalled := by
  induction l generalizing s with
  | nil => rfl
  | cons sl l ih => rw [State.setMarkers, ih, State.setMarker_stalled]

@[simp] theorem State.commit_cfg (s : State) (rec : Record) : (s.commit rec).cfg = s.cfg := by simp [State.commit]
@[simp] theorem State.commit_pc (s : State) (rec : Record) : (s.commit rec).pc = s.pc := by simp [State.commit]
@[simp] theorem State.commit_mem (s : State) (rec : Record) : (s.commit rec).mem = s.mem := by simp [State.commit]
@[simp] theorem State.commit_ifId (s : State) (rec : Record) : (s.commit rec).ifId = s.ifId := by simp [State.commit]
@[simp] theorem State.commit_idEx (s : State) (rec : Record) : (s.commit rec).idEx = s.idEx := by simp [State.commit]
@[simp] theorem State.commit_exMem (s : State) (rec : Record) : (s.commit rec).exMem = s.exMem := by simp [State.commit]
@[simp] theorem State.commit_memWb (s : State) (rec : Record) : (s.commit rec).memWb = s.memWb := by simp [State.commit]
@[simp] theorem State.commit_aluPool (s : State) (rec : Record) : (s.commit rec).aluPool = s.aluPool := by simp [State.commit]
@[simp] theorem State.commit_faddPool (s : State) (rec : Record) : (s.commit rec).faddPool = s.faddPool := by simp [State.commit]
@[simp] theorem State.commit_fmulPool (s : State) (rec : Record) : (s.commit rec).fmulPool = s.fmulPool := by simp [State.commit]
@[simp] theorem State.commit_fdivPool (s : State) (rec : Record) : (s.commit rec).fdivPool = s.fdivPool := by simp [State.commit]
@[simp] theorem State.commit_halted (s : State) (rec : Record) : (s.commit rec).halted = s.halted := by simp [State.commit]
@[simp] theorem State.commit_fatal (s : State) (rec : Record) : (s.commit rec).fatal = s.fatal := by simp [State.commit]
@[simp] theorem State.commit_stalled (s : State) (rec : Record) : (s.commit rec).stalled = s.stalled := by simp [State.commit]
@[simp] theorem State.commitOpt_cfg (s : State) (r : Option Record) : (s.commitOpt r).cfg = s.cfg := by
  cases r <;> simp [State.commitOpt]
@[simp] theorem State.commitOpt_pc (s : State) (r : Option Record) : (s.commitOpt r).pc = s.pc := by
  cases r <;> simp [State.commitOpt]
@[simp] theorem State.commitOpt_mem (s : State) (r : Option Record) : (s.commitOpt r).mem = s.mem := by
  cases r <;> simp [State.commitOpt]
@[simp] theorem State.commitOpt_ifId (s : State) (r : Option Record) : (s.commitOpt r).ifId = s.ifId := by
  cases r <;> simp [State.commitOpt]
@[simp] theorem State.commitOpt_idEx (s : State) (r : Option Record) : (s.commitOpt r).idEx = s.idEx := by
  cases r <;> simp [State.commitOpt]
@[simp] theorem State.commitOpt_exMem (s : State) (r : Option Record) : (s.commitOpt r).exMem = s.exMem := by
  cases r <;> simp [State.commitOpt]
@[simp] theorem State.commitOpt_memWb (s : State) (r : Option Record) : (s.commitOpt r).memWb = s.memWb := by
  cases r <;> simp [State.commitOpt]
@[simp] theorem State.commitOpt_aluPool (s : State) (r : Option Record) : (s.commitOpt r).aluPool = s.aluPool := by
  cases r <;> simp [State.commitOpt]
@[simp] theorem State.commitOpt_faddPool (s : State) (r : Option Record) : (s.commitOpt r).faddPool = s.faddPool := by
  cases r <;> simp [State.commitOpt]
@[simp] theorem State.commitOpt_fmulPool (s : State) (r : Option Record) : (s.commitOpt r).fmulPool = s.fmulPool := by
  cases r <;> simp [State.commitOpt]
@[simp] theorem State.commitOpt_fdivPool (s : State) (r : Option Record) : (s.commitOpt r).fdivPool = s.fdivPool := by
  cases r <;> simp [State.commitOpt]
@[simp] theorem State.commitOpt_halted (s : State) (r : Option Record) : (s.commitOpt r).halted = s.halted := by
  cases r <;> simp [State.commitOpt]
@[simp] theorem State.commitOpt_fatal (s : State) (r : Option Record) : (s.commitOpt r).fatal = s.fatal := by
  cases r <;> simp [State.commitOpt]
@[simp] theorem State.commitOpt_stalled (s : State) (r : Option Record) : (s.commitOpt r).stalled = s.stalled := by
  cases r <;> simp [State.commitOpt]

@[simp] theorem commitRecords_cfg (s : State) : (commitRecords s).cfg = s.cfg := by simp [commitRecords]
@[simp] theorem commitRecords_pc (s : State) : (commitRecords s).pc = s.pc := by simp [commitRecords]
@[simp] theorem commitRecords_mem (s : State) : (commitRecords s).mem = s.mem := by simp [commitRecords]
@[simp] theorem commitRecords_ifId (s : State) : (commitRecords s).ifId = s.ifId := by simp [commitRecords]
@[simp] theorem commitRecords_idEx (s : State) : (commitRecords s).idEx = s.idEx := by simp [commitRecords]
@[simp] theorem commitRecords_exMem (s : State) : (commitRecords s).exMem = s.exMem := by simp [commitRecords]
@[simp] theorem commitRecords_memWb (s : State) : (commitRecords s).memWb = s.memWb := by simp [commitRecords]
@[simp] theorem commitRecords_aluPool (s : State) : (commitRecords s).aluPool = s.aluPool := by simp [commitRecords]
@[simp] theorem commitRecords_faddPool (s : State) : (commitRecords s).faddPool = s.faddPool := by simp [commitRecords]
@[simp] theorem commitRecords_fmulPool (s : State) : (commitRecords s).fmulPool = s.fmulPool := by simp [commitRecords]
@[simp] theorem commitRecords_fdivPool (s : State) : (commitRecords s).fdivPool = s.fdivPool := by simp [commitRecords]
@[simp] theorem commitRecords_halted (s : State) : (commitRecords s).halted = s.halted := by simp [commitRecords]
@[simp] theorem commitRecords_fatal (s : State) : (commitRecords s).fatal = s.fatal := by simp [commitRecords]
@[simp] theorem commitRecords_stalled (s : State) : (commitRecords s).stalled = s.stalled := by simp [commitRecords]
@[simp] theorem linkWriteback_cfg (w : MemWb) (s : State) : (linkWriteback w s).cfg = s.cfg := by
  unfold linkWriteback; split <;> simp
@[simp] theorem linkWriteback_pc (w : MemWb) (s : State) : (linkWriteback w s).pc = s.pc := by
  unfold linkWriteback; split <;> simp
@[simp] theorem linkWriteback_mem (w : MemWb) (s : State) : (linkWriteback w s).mem = s.mem := by
  unfold linkWriteback; split <;> simp
@[simp] theorem linkWriteback_ifId (w : MemWb) (s : State) : (linkWriteback w s).ifId = s.ifId := by
  unfold linkWriteback; split <;> simp
@[simp] theorem linkWriteback_idEx (w : MemWb) (s : State) : (linkWriteback w s).idEx = s.idEx := by
  unfold linkWriteback; split <;> simp
@[simp] theorem linkWriteback_exMem (w : MemWb) (s : State) : (linkWriteback w s).exMem = s.exMem := by
  unfold linkWriteback; split <;> simp
@[simp] theorem linkWriteback_memWb (w : MemWb) (s : State) : (linkWriteback w s).memWb = s.memWb := by
  unfold linkWriteback; split <;> simp
@[simp] theorem linkWriteback_aluPool (w : MemWb) (s : State) : (linkWriteback w s).aluPool = s.aluPool := by
  unfold linkWriteback; split <;> simp
@[simp] theorem linkWriteback_faddPool (w : MemWb) (s : State) : (linkWriteback w s).faddPool = s.faddPool := by
  unfold linkWriteback; split <;> simp
@[simp] theorem linkWriteback_fmulPool (w : MemWb) (s : State) : (linkWriteback w s).fmulPool = s.fmulPool := by
  unfold linkWriteback; split <;> simp
@[simp] theorem linkWriteback_fdivPool (w : MemWb) (s : State) : (linkWriteback w s).fdivPool = s.fdivPool := by
  unfold linkWriteback; split <;> simp
@[simp] theorem linkWriteback_halted (w : MemWb) (s : State) : (linkWriteback w s).halted = s.halted := by
  unfold linkWriteback; split <;> simp
@[simp] theorem linkWriteback_fatal (w : MemWb) (s : State) : (linkWriteback w s).fatal = s.fatal := by
  unfold linkWriteback; split <;> simp
@[simp] theorem linkWriteback_stalled (w : MemWb) (s : State) : (linkWriteback w s).stalled = s.stalled := by
  unfold linkWriteback; split <;> simp
@[simp] theorem haltWriteback_cfg (w : MemWb) (s : State) : (haltWriteback w s).cfg = s.cfg := by
  unfold haltWriteback; split <;> simp
@[simp] theorem haltWriteback_regs (w : MemWb) (s : State) : (haltWriteback w s).regs = s.regs := by
  unfold haltWriteback; split <;> simp
@[simp] theorem haltWriteback_fregs (w : MemWb) (s : State) : (haltWriteback w s).fregs = s.fregs := by
  unfold haltWriteback; split <;> simp
@[simp] theorem haltWriteback_fps (w : MemWb) (s : State) : (haltWriteback w s).fps = s.fps := by
  unfold haltWriteback; split <;> simp
@[simp] theorem haltWriteback_pc (w : MemWb) (s : State) : (haltWriteback w s).pc = s.pc := by
  unfold haltWriteback; split <;> simp
@[simp] theorem haltWriteback_mem (w : MemWb) (s : State) : (haltWriteback w s).mem = s.mem := by
  unfold haltWriteback; split <;> simp
@[simp] theorem haltWriteback_ifId (w : MemWb) (s : State) : (haltWriteback w s).ifId = s.ifId := by
  unfold haltWriteback; split <;> simp
@[simp] theorem haltWriteback_idEx (w : MemWb) (s : State) : (haltWriteback w s).idEx = s.idEx := by
  unfold haltWriteback; split <;> simp
@[simp] theorem haltWriteback_exMem (w : MemWb) (s : State) : (haltWriteback w s).exMem = s.exMem := by
  unfold haltWriteback; split <;> simp
@[simp] theorem haltWriteback_memWb (w : MemWb) (s : State) : (haltWriteback w s).memWb = s.memWb := by
  unfold haltWriteback; split <;> simp
@[simp] theorem haltWriteback_ui (w : MemWb) (s : State) : (haltWriteback w s).ui = s.ui := by
  unfold haltWriteback; split <;> simp
@[simp] theorem haltWriteback_uf (w : MemWb) (s : State) : (haltWriteback w s).uf = s.uf := by
  unfold haltWriteback; split <;> simp
@[simp] theorem haltWriteback_uc (w : MemWb) (s : State) : (haltWriteback w s).uc = s.uc := by
  unfold haltWriteback; split <;> simp
@[simp] theorem haltWriteback_aluPool (w : MemWb) (s : State) : (haltWriteback w s).aluPool = s.aluPool := by
  unfold haltWriteback; split <;> simp
@[simp] theorem haltWriteback_faddPool (w : MemWb) (s : State) : (haltWriteback w s).faddPool = s.faddPool := by
  unfold haltWriteback; split <;> simp
@[simp] theorem haltWriteback_fmulPool (w : MemWb) (s : State) : (haltWriteback w s).fmulPool = s.fmulPool := by
  unfold haltWriteback; split <;> simp
@[simp] theorem haltWriteback_fdivPool (w : MemWb) (s : State) : (haltWriteback w s).fdivPool = s.fdivPool := by
  unfold haltWriteback; split <;> simp
@[simp] theorem haltWriteback_fatal (w : MemWb) (s : State) : (haltWriteback w s).fatal = s.fatal := by
  unfold haltWriteback; split <;> simp
@[simp] theorem haltWriteback_stalled (w : MemWb) (s : State) : (haltWriteback w s).stalled = s.stalled := by
  unfold haltWriteback; split <;> simp

@[simp] theorem writebackStage_cfg (s : State) : (writebackStage s).cfg = s.cfg := by simp [writebackStage]
@[simp] theorem writebackStage_pc (s : State) : (writebackStage s).pc = s.pc := by simp [writebackStage]
@[simp] theorem writebackStage_mem (s : State) : (writebackStage s).mem = s.mem := by simp [writebackStage]
@[simp] theorem writebackStage_ifId (s : State) : (writebackStage s).ifId = s.ifId := by simp [writebackStage]
@[simp] theorem writebackStage_idEx (s : State) : (writebackStage s).idEx = s.idEx := by simp [writebackStage]
@[simp] theorem writebackStage_exMem (s : State) : (writebackStage s).exMem = s.exMem := by simp [writebackStage]
@[simp] theorem writebackStage_memWb (s : State) : (writebackStage s).memWb = s.memWb := by simp [writebackStage]
@[simp] theorem writebackStage_aluPool (s : State) : (writebackStage s).aluPool = s.aluPool := by simp [writebackStage]
@[simp] theorem writebackStage_faddPool (s : State) : (writebackStage s).faddPool = s.faddPool := by simp [writebackStage]
@[simp] theorem writebackStage_fmulPool (s : State) : (writebackStage s).fmulPool = s.fmulPool := by simp [writebackStage]
@[simp] theorem writebackStage_fdivPool (s : State) : (writebackStage s).fdivPool = s.fdivPool := by simp [writebackStage]
@[simp] theorem writebackStage_fatal (s : State) : (writebackStage s).fatal = s.fatal := by simp [writebackStage]
@[simp] theorem writebackStage_stalled (s : State) : (writebackStage s).stalled = s.stalled := by simp [writebackStage]

@[simp] theorem redirect_cfg (s : State) : (redirect s).cfg = s.cfg := by unfold redirect; split <;> rfl
@[simp] theorem redirect_regs (s : State) : (redirect s).regs = s.regs := by unfold redirect; split <;> rfl
@[simp] theorem redirect_fregs (s : State) : (redirect s).fregs = s.fregs := by unfold redirect; split <;> rfl
@[simp] theorem redirect_fps (s : State) : (redirect s).fps = s.fps := by unfold redirect; split <;> rfl
@[simp] theorem redirect_mem (s : State) : (redirect s).mem = s.mem := by unfold redirect; split <;> rfl
@[simp] theorem redirect_ifId (s : State) : (redirect s).ifId = s.ifId := by unfold redirect; split <;> rfl
@[simp] theorem redirect_idEx (s : State) : (redirect s).idEx = s.idEx := by unfold redirect; split <;> rfl
@[simp] theorem redirect_exMem (s : State) : (redirect s).exMem = s.exMem := by unfold redirect; split <;> rfl
@[simp] theorem redirect_memWb (s : State) : (redirect s).memWb = s.memWb := by unfold redirect; split <;> rfl
@[simp] theorem redirect_ui (s : State) : (redirect s).ui = s.ui := by unfold redirect; split <;> rfl
@[simp] theorem redirect_uf (s : State) : (redirect s).uf = s.uf := by unfold redirect; split <;> rfl
@[simp] theorem redirect_uc (s : State) : (redirect s).uc = s.uc := by unfold redirect; split <;> rfl
@[simp] theorem redirect_aluPool (s : State) : (redirect s).aluPool = s.aluPool := by unfold redirect; split <;> rfl
@[simp] theorem redirect_faddPool (s : State) : (redirect s).faddPool = s.faddPool := by unfold redirect; split <;> rfl
@[simp] theorem redirect_fmulPool (s : State) : (redirect s).fmulPool = s.fmulPool := by unfold redirect; split <;> rfl
@[simp] theorem redirect_fdivPool (s : State) : (redirect s).fdivPool = s.fdivPool := by unfold redirect; split <;> rfl
@[simp] theorem redirect_halted (s : State) : (redirect s).halted = s.halted := by unfold redirect; split <;> rfl
@[simp] theorem redirect_fatal (s : State) : (redirect s).fatal = s.fatal := by unfold redirect; split <;> rfl
@[simp] theorem redirect_stalled (s : State) : (redirect s).stalled = s.stalled := by unfold redirect; split <;> rfl

@[simp] theorem State.pool_setPool_same (s : State) (k : UnitClass) (p : List FuncUnit) : (s.setPool k p).pool k = p := by
  cases k <;> rfl

theorem State.pool_setPool_ne (s : State) {k k' : UnitClass} (p : List FuncUnit) (h : k' ≠ k) :
    (s.setPool k p).pool k' = s.pool k' := by
  cases k <;> cases k' <;> first | rfl | exact absurd rfl h

@[simp] theorem State.writeReg_pool (s : State) (i : Reg) (v : Word) (k : UnitClass) : (s.writeReg i v).pool k = s.pool k := by
  cases k <;> rfl

@[simp] theorem State.writeF_pool (s : State) (i : Reg) (v : Word) (k : UnitClass) : (s.writeF i v).pool k = s.pool k := by
  cases k <;> rfl

@[simp] theorem State.setMarker_pool (s : State) (sl : Slot) (b : Bool) (k : UnitClass) : (s.setMarker sl b).pool k = s.pool k := by
  cases k <;> simp [State.pool]

@[simp] theorem State.setMarkers_pool (s : State) (l : List Slot) (b : Bool) (k : UnitClass) : (s.setMarkers l b).pool k = s.pool k := by
  cases k <;> simp [State.pool]

@[simp] theorem executePhase1_pool (s : State) (k : UnitClass) : (executePhase1 s).1.pool k = (unloadPool (tickPool (s.pool k))).2 := by
  cases k <;> rfl

@[simp] theorem writebackStage_pool (s : State) (k : UnitClass) : (writebackStage s).pool k = s.pool k := by
  cases k <;> simp [State.pool]

@[simp] theorem redirect_pool (s : State) (k : UnitClass) : (redirect s).pool k = s.pool k := by
  cases k <;> simp [State.pool]

end Sys2Proof.Machine
end

