-- ==== Sys2Proof/Laws/Memory.lean ====
section
/-! SUPPORT. Memory: a byte read after a byte written, and the canonical form that every operation keeps. -/

namespace Sys2Proof.Machine

/-! ## The canonical form -/

theorem Memory.wf_cons (a : Nat) (v : Byte) (rest : Memory) :
    Memory.wf ((a, v) :: rest) = true ↔ v ≠ unlistedByte ∧ (∀ c ∈ rest, a < c.1) ∧ Memory.wf rest = true := by
  simp [Memory.wf, and_assoc]

/-- Every address a write leaves listed was listed or is the address written. -/
theorem mem_writeByte (m : Memory) (a : Nat) (v : Byte) {c : Host.Cell} (h : c ∈ writeByte m a v) :
    c ∈ m ∨ c.1 = a := by
  induction m with
  | nil =>
    simp only [writeByte] at h
    split at h
    · simp at h
    · simp at h; simp [h]
  | cons d rest ih =>
    obtain ⟨b, w⟩ := d
    simp only [writeByte] at h
    split at h
    · split at h
      · exact .inl h
      · rcases List.mem_cons.1 h with h | h
        · simp [h]
        · exact .inl h
    · split at h
      · next e => split at h
                  · exact .inl (List.mem_cons_of_mem _ h)
                  · rcases List.mem_cons.1 h with h | h
                    · simp [h]
                    · exact .inl (List.mem_cons_of_mem _ h)
      · rcases List.mem_cons.1 h with h | h
        · simp [h]
        · rcases ih h with h | h
          · exact .inl (List.mem_cons_of_mem _ h)
          · exact .inr h

theorem wf_writeByte (m : Memory) (a : Nat) (v : Byte) (h : Memory.wf m = true) :
    Memory.wf (writeByte m a v) = true := by
  induction m with
  | nil => simp only [writeByte]; split <;> simp_all [Memory.wf]
  | cons d rest ih =>
    obtain ⟨b, w⟩ := d
    obtain ⟨hw, hb, hr⟩ := (Memory.wf_cons b w rest).1 h
    simp only [writeByte]
    split
    · next hab =>
      split
      · exact h
      · next hv =>
        refine (Memory.wf_cons _ _ _).2 ⟨hv, ?_, h⟩
        intro c hc
        rcases List.mem_cons.1 hc with rfl | hc
        · exact hab
        · exact hab.trans (hb c hc)
    · split
      · next hab =>
        subst hab
        split
        · exact hr
        · next hv => exact (Memory.wf_cons _ _ _).2 ⟨hv, hb, hr⟩
      · next h1 h2 =>
        refine (Memory.wf_cons _ _ _).2 ⟨hw, ?_, ih hr⟩
        intro c hc
        rcases mem_writeByte rest a v hc with hc | hc
        · exact hb c hc
        · omega

theorem wf_writeLE (m : Memory) (a n v : Nat) (h : Memory.wf m = true) : Memory.wf (writeLE m a n v) = true := by
  induction n generalizing m a v with
  | zero => exact h
  | succ n ih => exact ih _ _ _ (wf_writeByte _ _ _ h)

theorem wf_memWrite {memSize : Nat} {m m' : Memory} {addr : Word} {n : Width} {v : DWord}
    (hw : memWrite memSize m addr n v = some m') (h : Memory.wf m = true) : Memory.wf m' = true := by
  simp only [memWrite] at hw
  split at hw
  · cases hw; exact wf_writeLE _ _ _ _ h
  · cases hw

theorem wf_storeBytes (m : Memory) (a : Nat) (bs : List Byte) (h : Memory.wf m = true) :
    Memory.wf (storeBytes m a bs) = true := by
  induction bs generalizing m a with
  | nil => exact h
  | cons b bs ih => exact ih _ _ (wf_writeByte _ _ _ h)

theorem wf_reset : Memory.wf State.reset.mem = true := rfl

/-- Every address a write leaves listed was listed or lies in the bytes written. -/
theorem mem_writeLE (m : Memory) (a n v : Nat) {c : Host.Cell} (h : c ∈ writeLE m a n v) :
    c ∈ m ∨ (a ≤ c.1 ∧ c.1 < a + n) := by
  induction n generalizing m a v with
  | zero => exact .inl h
  | succ n ih =>
    rcases ih _ _ _ h with h | h
    · rcases mem_writeByte _ _ _ h with h | h
      · exact .inl h
      · exact .inr (by omega)
    · exact .inr (by omega)

/-- A store in range lists no address at or above `MEMSIZE` that was not listed. -/
theorem below_memWrite {memSize : Nat} {m m' : Memory} {addr : Word} {n : Width} {v : DWord}
    (hw : memWrite memSize m addr n v = some m') (h : ∀ c ∈ m, c.1 < memSize) : ∀ c ∈ m', c.1 < memSize := by
  simp only [memWrite, inRange, decide_eq_true_eq] at hw
  split at hw
  · next hr =>
    cases hw
    intro c hc
    rcases mem_writeLE _ _ _ _ hc with hc | hc
    · exact h c hc
    · omega
  · cases hw

/-! ## Reading bytes -/

theorem readByte_of_not_listed (m : Memory) (a : Nat) (h : ∀ c ∈ m, c.1 ≠ a) : readByte m a = unlistedByte := by
  induction m with
  | nil => rfl
  | cons d rest ih =>
    obtain ⟨b, w⟩ := d
    have hb : b ≠ a := h (b, w) (List.mem_cons_self ..)
    simp [readByte, hb, ih fun c hc => h c (List.mem_cons_of_mem _ hc)]

/-- The basic law: the byte written reads as written, and every other byte reads as before. -/
theorem readByte_writeByte (m : Memory) (a x : Nat) (v : Byte) (h : Memory.wf m = true) :
    readByte (writeByte m a v) x = if x = a then v else readByte m x := by
  induction m with
  | nil =>
    simp only [writeByte]
    by_cases hv : v = unlistedByte
    · simp [hv, readByte]
    · by_cases hx : a = x
      · simp [hv, readByte, hx]
      · simp [hv, readByte, hx, Ne.symm hx]
  | cons d rest ih =>
    obtain ⟨b, w⟩ := d
    obtain ⟨-, hb, hr⟩ := (Memory.wf_cons b w rest).1 h
    simp only [writeByte]
    by_cases hab : a < b
    · have hnot : readByte ((b, w) :: rest) a = unlistedByte := by
        refine readByte_of_not_listed _ _ fun c hc => ?_
        rcases List.mem_cons.1 hc with rfl | hc
        · exact (Nat.ne_of_lt hab).symm
        · exact (Nat.ne_of_lt (hab.trans (hb c hc))).symm
      by_cases hv : v = unlistedByte
      · by_cases hx : x = a
        · subst hx; simp only [hab, hv, if_true]; exact hnot
        · simp [hab, hv, hx]
      · by_cases hx : x = a
        · subst hx; simp [hab, hv, readByte]
        · simp [hab, hv, hx, readByte, Ne.symm hx]
    · by_cases hab' : a = b
      · subst hab'
        have hnot : readByte rest a = unlistedByte :=
          readByte_of_not_listed _ _ fun c hc => (Nat.ne_of_lt (hb c hc)).symm
        by_cases hv : v = unlistedByte
        · by_cases hx : x = a
          · subst hx; simp [hv, hnot]
          · simp [hv, hx, readByte, Ne.symm hx]
        · by_cases hx : x = a
          · subst hx; simp [hv, readByte]
          · simp [hv, hx, readByte, Ne.symm hx]
      · simp only [hab, hab', if_false, readByte]
        by_cases hx : b = x
        · have : x ≠ a := by omega
          simp [hx, this]
        · simp [hx, ih hr]

/-- Bytes outside a little-endian write read as before. -/
theorem readByte_writeLE_outside (m : Memory) (a n v x : Nat) (h : Memory.wf m = true) (hx : x < a ∨ a + n ≤ x) :
    readByte (writeLE m a n v) x = readByte m x := by
  induction n generalizing m a v with
  | zero => rfl
  | succ n ih =>
    rw [writeLE, ih _ _ _ (wf_writeByte _ _ _ h) (by omega), readByte_writeByte _ _ _ _ h, if_neg (by omega)]

/-- Byte `k` of a little-endian write is bits `8k+7..8k` of the value. -/
theorem readByte_writeLE_inside (m : Memory) (a n v k : Nat) (h : Memory.wf m = true) (hk : k < n) :
    readByte (writeLE m a n v) (a + k) = BitVec.ofNat 8 (v / 256 ^ k) := by
  induction n generalizing m a v k with
  | zero => omega
  | succ n ih =>
    cases k with
    | zero =>
      rw [writeLE, readByte_writeLE_outside _ _ _ _ _ (wf_writeByte _ _ _ h) (by omega), readByte_writeByte _ _ _ _ h]
      simp
    | succ k =>
      have := ih (writeByte m a (BitVec.ofNat 8 v)) (a + 1) (v / 256) k (wf_writeByte _ _ _ h) (by omega)
      rw [writeLE, show a + (k + 1) = a + 1 + k by omega, this, Nat.div_div_eq_div_mul, pow_succ, Nat.mul_comm]

theorem readLE_lt (m : Memory) (a n : Nat) : readLE m a n < 256 ^ n := by
  induction n generalizing a with
  | zero => simp [readLE]
  | succ n ih =>
    have h1 := (readByte m a).isLt
    have h2 := ih (a + 1)
    rw [readLE, pow_succ]
    omega

/-- A little-endian read depends on its own bytes only. -/
theorem readLE_congr (m m' : Memory) (a n : Nat) (h : ∀ k < n, readByte m (a + k) = readByte m' (a + k)) :
    readLE m a n = readLE m' a n := by
  induction n generalizing a with
  | zero => rfl
  | succ n ih =>
    have h0 := h 0 (by omega)
    rw [readLE, readLE, ih (a + 1) fun k hk => by
      have := h (k + 1) (by omega); rwa [show a + (k + 1) = a + 1 + k by omega] at this]
    simp only [Nat.add_zero] at h0
    rw [h0]

/-! ## The typed accesses -/

theorem memRead_eq_none_iff (memSize : Nat) (m : Memory) (addr : Word) (n : Width) :
    memRead memSize m addr n = none ↔ memSize < addr.toNat + n.bytes := by
  simp [memRead, inRange]

theorem memWrite_eq_none_iff (memSize : Nat) (m : Memory) (addr : Word) (n : Width) (v : DWord) :
    memWrite memSize m addr n v = none ↔ memSize < addr.toNat + n.bytes := by
  simp [memWrite, inRange]

theorem memRead_of_inRange {memSize : Nat} {m : Memory} {addr : Word} {n : Width}
    (h : addr.toNat + n.bytes ≤ memSize) :
    memRead memSize m addr n = some (BitVec.ofNat 64 (readLE m addr.toNat n.bytes)) := by
  simp [memRead, inRange, h]

theorem memWrite_of_inRange {memSize : Nat} {m : Memory} {addr : Word} {n : Width} {v : DWord}
    (h : addr.toNat + n.bytes ≤ memSize) :
    memWrite memSize m addr n v = some (writeLE m addr.toNat n.bytes v.toNat) := by
  simp [memWrite, inRange, h]

end Sys2Proof.Machine
end

