-- ==== Sys2Proof/Laws/Registers.lean ====
section
/-! SUPPORT. The register files, the slots and the markers: what a read gives after a write. -/

namespace Sys2Proof.Machine

/-! ## Halves -/

@[simp] theorem lo32_wide (v : Word) : lo32 (wide v) = v := by simp [lo32, wide]

@[simp] theorem hi32_wide (v : Word) : hi32 (wide v) = 0 := by
  ext i hi; simp [hi32, wide]

@[simp] theorem lo32_append (h l : Word) : lo32 (h ++ l) = l := by
  apply BitVec.eq_of_getLsbD_eq
  intro i hi
  have e : (h ++ l : BitVec (32 + 32)).getLsbD i = l.getLsbD i := by rw [BitVec.getLsbD_append]; simp [hi]
  simpa [lo32, hi] using e

@[simp] theorem hi32_append (h l : Word) : hi32 (h ++ l) = h := by
  apply BitVec.eq_of_getLsbD_eq
  intro i hi
  have e : (h ++ l : BitVec (32 + 32)).getLsbD (32 + i) = h.getLsbD i := by rw [BitVec.getLsbD_append]; simp
  simpa [hi32, hi] using e

/-- A pattern of 64 bits is its two halves. -/
theorem hi32_append_lo32 (v : DWord) : hi32 v ++ lo32 v = v := by
  apply BitVec.eq_of_getLsbD_eq
  intro i hi
  simp only [hi32, lo32, BitVec.getLsbD_append, BitVec.getLsbD_setWidth, BitVec.getLsbD_extractLsb']
  split
  · next h => simp [h]
  · next h => simp [show 32 + (i - 32) = i by omega, show i - 32 < 32 by omega]

@[simp] theorem lo32_bit32 (b : Bool) : (wide (bit32 b)).getLsbD 0 = b := by cases b <;> rfl

/-! ## Files of 32 -/

@[simp] theorem fileGet_fileSet_same {α : Type} (v : Vector α 32) (i : Reg) (x : α) :
    fileGet (fileSet v i x) i = x := by
  simp [fileGet, fileSet]

theorem fileGet_fileSet_ne {α : Type} (v : Vector α 32) {i j : Reg} (x : α) (h : j ≠ i) :
    fileGet (fileSet v i x) j = fileGet v j := by
  have hij : i.toNat ≠ j.toNat := fun e => h (BitVec.eq_of_toNat_eq e.symm)
  simp [fileGet, fileSet, hij]

theorem fileGet_fileSet {α : Type} (v : Vector α 32) (i j : Reg) (x : α) :
    fileGet (fileSet v i x) j = if j = i then x else fileGet v j := by
  by_cases h : j = i
  · subst h; simp
  · rw [fileGet_fileSet_ne v x h, if_neg h]

@[simp] theorem fileGet_replicate {α : Type} (x : α) (i : Reg) : fileGet (Vector.replicate 32 x) i = x := by
  simp [fileGet]

/-! ## General registers -/

@[simp] theorem readReg_writeReg (s : State) (i j : Reg) (v : Word) :
    (s.writeReg i v).readReg j = if j = i then v else s.readReg j := fileGet_fileSet s.regs i j v

@[simp] theorem readReg_writeF (s : State) (i j : Reg) (v : Word) : (s.writeF i v).readReg j = s.readReg j := rfl
@[simp] theorem readReg_writeFD (s : State) (i j : Reg) (v : DWord) : (s.writeFD i v).readReg j = s.readReg j := rfl
@[simp] theorem readReg_writeFps (s : State) (b : Bool) (j : Reg) : (s.writeFps b).readReg j = s.readReg j := rfl
@[simp] theorem readReg_setPc (s : State) (v : Word) (j : Reg) : (s.setPc v).readReg j = s.readReg j := rfl
@[simp] theorem readReg_advance (s : State) (j : Reg) : s.advance.readReg j = s.readReg j := rfl
@[simp] theorem readReg_halt (s : State) (j : Reg) : s.halt.readReg j = s.readReg j := rfl

/-! ## Floating-point slots -/

@[simp] theorem readF_writeF (s : State) (i j : Reg) (v : Word) :
    (s.writeF i v).readF j = if j = i then v else s.readF j := fileGet_fileSet s.fregs i j v

@[simp] theorem readF_writeReg (s : State) (i j : Reg) (v : Word) : (s.writeReg i v).readF j = s.readF j := rfl
@[simp] theorem readF_writeFps (s : State) (b : Bool) (j : Reg) : (s.writeFps b).readF j = s.readF j := rfl
@[simp] theorem readF_setPc (s : State) (v : Word) (j : Reg) : (s.setPc v).readF j = s.readF j := rfl
@[simp] theorem readF_advance (s : State) (j : Reg) : s.advance.readF j = s.readF j := rfl
@[simp] theorem readF_halt (s : State) (j : Reg) : s.halt.readF j = s.readF j := rfl

@[simp] theorem readF_writeFD (s : State) (i j : Reg) (v : DWord) :
    (s.writeFD i v).readF j = if j = i + 1 then hi32 v else if j = i then lo32 v else s.readF j := by
  simp [State.writeFD]

/-- No slot is its own partner. -/
theorem reg_ne_add_one (i : Reg) : i ≠ i + 1 := by
  intro h
  have := congrArg BitVec.toNat h
  have hi := i.isLt
  rw [BitVec.toNat_add] at this
  simp at this
  omega

/-! ## Slots -/

/-- A write through a tag leaves every slot the tag does not cover. -/
theorem readSlot_writeTag_of_not_mem (s : State) (t : Tag) (v : DWord) {sl : Slot} (h : sl ∉ t.slots) :
    (s.writeTag t v).readSlot sl = s.readSlot sl := by
  cases t <;> cases sl <;> simp_all [State.writeTag, State.readSlot, Tag.slots]

/-- A record's write gives every slot it covers the record's value for it. -/
theorem readSlot_writeTag_of_valueFor (s : State) (rec : Record) {sl : Slot} {v : Word}
    (h : rec.valueFor sl = some v) : (s.writeTag rec.tag rec.value).readSlot sl = v := by
  obtain ⟨t, w⟩ := rec
  cases t with
  | r i => simp [Record.valueFor] at h; obtain ⟨rfl, rfl⟩ := h; simp [State.writeTag, State.readSlot]
  | fs i => simp [Record.valueFor] at h; obtain ⟨rfl, rfl⟩ := h; simp [State.writeTag, State.readSlot]
  | fd i =>
    simp only [Record.valueFor] at h
    split at h
    · next e => subst e; cases h; simp [State.writeTag, State.readSlot]
    · split at h
      · next e => subst e; cases h; simp [State.writeTag, State.readSlot]
      · cases h
  | cc => simp [Record.valueFor] at h; obtain ⟨rfl, rfl⟩ := h; simp [State.writeTag, State.readSlot]

/-- A record covers a slot exactly where it has a value for it. -/
theorem valueFor_isSome_iff (rec : Record) (sl : Slot) : (rec.valueFor sl).isSome = true ↔ sl ∈ rec.tag.slots := by
  obtain ⟨t, w⟩ := rec
  cases t <;> simp [Record.valueFor, Tag.slots]
  split
  · simp_all
  · split <;> simp_all

@[simp] theorem readSlot_setMarker (s : State) (a sl : Slot) (b : Bool) :
    (s.setMarker a b).readSlot sl = s.readSlot sl := by
  cases sl <;> simp [State.readSlot, State.readReg, State.readF]

@[simp] theorem readSlot_setMarkers (s : State) (l : List Slot) (sl : Slot) (b : Bool) :
    (s.setMarkers l b).readSlot sl = s.readSlot sl := by
  cases sl <;> simp [State.readSlot, State.readReg, State.readF]

@[simp] theorem readSlot_setPc (s : State) (v : Word) (sl : Slot) : (s.setPc v).readSlot sl = s.readSlot sl := by
  cases sl <;> rfl

@[simp] theorem readSlot_advance (s : State) (sl : Slot) : s.advance.readSlot sl = s.readSlot sl := by
  cases sl <;> rfl

@[simp] theorem readSlot_halt (s : State) (sl : Slot) : s.halt.readSlot sl = s.readSlot sl := by
  cases sl <;> rfl

@[simp] theorem readSlot_executePhase1 (s : State) (sl : Slot) :
    (executePhase1 s).1.readSlot sl = s.readSlot sl := by
  cases sl <;> rfl

/-! ## Markers -/

@[simp] theorem marker_setMarker (s : State) (a sl : Slot) (b : Bool) :
    (s.setMarker a b).marker sl = if sl = a then b else s.marker sl := by
  cases a <;> cases sl <;> simp [State.setMarker, State.marker, fileGet_fileSet]

theorem marker_setMarkers (s : State) (l : List Slot) (sl : Slot) (b : Bool) :
    (s.setMarkers l b).marker sl = if sl ∈ l then b else s.marker sl := by
  induction l generalizing s with
  | nil => simp [State.setMarkers]
  | cons a rest ih =>
    rw [State.setMarkers, ih]
    by_cases h1 : sl ∈ rest <;> by_cases h2 : sl = a <;> simp [h1, h2]

@[simp] theorem marker_writeTag (s : State) (t : Tag) (v : DWord) (sl : Slot) :
    (s.writeTag t v).marker sl = s.marker sl := by
  cases sl <;> simp [State.marker]

@[simp] theorem marker_setPc (s : State) (v : Word) (sl : Slot) : (s.setPc v).marker sl = s.marker sl := by
  cases sl <;> rfl

@[simp] theorem marker_setPool (s : State) (k : UnitClass) (p : List FuncUnit) (sl : Slot) :
    (s.setPool k p).marker sl = s.marker sl := by
  cases sl <;> simp [State.marker]

@[simp] theorem readSlot_setPool (s : State) (k : UnitClass) (p : List FuncUnit) (sl : Slot) :
    (s.setPool k p).readSlot sl = s.readSlot sl := by
  cases sl <;> simp [State.readSlot, State.readReg, State.readF]

@[simp] theorem marker_executePhase1 (s : State) (sl : Slot) :
    (executePhase1 s).1.marker sl = s.marker sl := by
  cases sl <;> rfl

/-! ## Commit (R336) -/

/-- A commit leaves every slot and marker its tag does not cover. -/
theorem commit_frame (s : State) (rec : Record) {sl : Slot} (h : sl ∉ rec.tag.slots) :
    (s.commit rec).readSlot sl = s.readSlot sl ∧ (s.commit rec).marker sl = s.marker sl := by
  simp [State.commit, marker_setMarkers, h, readSlot_writeTag_of_not_mem]

/-- A commit writes and clears every slot its tag covers. -/
theorem commit_covered (s : State) (rec : Record) {sl : Slot} {v : Word} (h : rec.valueFor sl = some v) :
    (s.commit rec).readSlot sl = v ∧ (s.commit rec).marker sl = false := by
  have hm : sl ∈ rec.tag.slots := (valueFor_isSome_iff rec sl).1 (by simp [h])
  simp [State.commit, marker_setMarkers, hm, readSlot_writeTag_of_valueFor s rec h]

end Sys2Proof.Machine
end

