-- ==== Sys2Proof/Laws/Exec.lean ====
section
/-! SUPPORT. The meanings: `exec` is `runAlone` of the instruction's path, and what `runAlone` can do, said once. -/

namespace Sys2Proof.Machine

/-! ## Paths -/

/-- Every meaning is the architectural effect of the instruction's path. -/
theorem exec_eq_runAlone (i : Instr) (s : State) : exec i s = runAlone (pathOf i) s := by cases i <;> rfl

theorem pathOfWord_of_decodeWord {w : Word} {i : Instr} (h : decodeWord w = some i) : pathOfWord w = pathOf i := by
  simp [pathOfWord, h]

theorem pathOfWord_of_unassigned {w : Word} (h : decodeWord w = none) : pathOfWord w = .pass := by
  simp [pathOfWord, h]

@[simp] theorem pathOfWord_zero : pathOfWord 0 = .pass := rfl
@[simp] theorem pathOfWord_zero_lit : pathOfWord 0#32 = .pass := rfl

theorem onPairs_eq (is : List Reg) (p : Path) : onPairs is p = p ∨ onPairs is p = .slot31 := by
  unfold onPairs; split
  · exact .inl rfl
  · exact .inr rfl

theorem onPairs_of_ok {is : List Reg} (p : Path) (h : is.all pairOk = true) : onPairs is p = p := by
  simp [onPairs, h]

/-- What every path is made of: a unit operation has a tag of its kind, a load's tag names no pair at slot 31. -/
def Path.ok : Path → Bool
  | .unit op dst _ _ => op.fits dst
  | .load dst _ _ _ _ => dst.wf
  | _ => true

theorem onPairs_ok (is : List Reg) (p : Path) (h : is.all pairOk = true → p.ok = true) :
    (onPairs is p).ok = true := by
  unfold onPairs; split
  · next e => exact h e
  · rfl

theorem pathOf_ok (i : Instr) : (pathOf i).ok = true := by
  cases i <;>
    first
    | rfl
    | (refine onPairs_ok _ _ fun h => ?_
       simp only [List.all_cons, List.all_nil, Bool.and_true, Bool.and_eq_true, pairOk, bne_iff_ne] at h
       simp only [Path.ok, UnitOp.fits, Tag.wf, bne_iff_ne, ne_eq, h, not_false_eq_true])

theorem pathOfWord_ok (w : Word) : (pathOfWord w).ok = true := by
  unfold pathOfWord; split
  · exact pathOf_ok _
  · rfl

/-- A tag that fits an operation names no pair at slot 31. -/
theorem UnitOp.wf_of_fits {op : UnitOp} {t : Tag} (h : op.fits t = true) : t.wf = true := by
  cases t <;> try rfl
  cases op with
  | arith o p => cases p <;> simp_all [UnitOp.fits, Tag.wf]
  | int o => simp [UnitOp.fits] at h
  | rel r p => simp [UnitOp.fits] at h
  | intMulDiv o => simp [UnitOp.fits] at h

/-- A refused path is exactly that of a double form that names slot 31 (R28). -/
theorem pathOf_eq_slot31_iff (i : Instr) : pathOf i = .slot31 ↔ i.wellFormed = false := by
  cases i <;>
    first
    | exact iff_of_false (fun h => Path.noConfusion h) (fun h => Bool.noConfusion h)
    | simp [pathOf, Instr.wellFormed, onPairs, pathAddd, pathSubd, pathMultd, pathDivd, pathEqd, pathNed, pathLtd,
        pathGtd, pathLed, pathGed, pathLd, pathSd]

/-! ## Sources and destinations (R107) -/

/-- The path of a well-formed instruction reads the slots of the instruction's row of R107. -/
theorem pathOf_srcs {i : Instr} (h : i.wellFormed = true) : (pathOf i).srcs = sourceSlots i := by
  cases i <;>
    first
    | rfl
    | (simp only [Instr.wellFormed, Bool.and_eq_true] at h
       simp [pathOf, onPairs, pathAddd, pathSubd, pathMultd, pathDivd, pathEqd, pathNed, pathLtd, pathGtd, pathLed,
         pathGed, pathLd, pathSd, h, Path.srcs, Path.sourceA, Path.sourceB, Source.slots, sourceSlots, pairSlots])

/-- The path of a well-formed instruction writes the slots of the instruction's row of R107. -/
theorem pathOf_dstSlots {i : Instr} (h : i.wellFormed = true) : (pathOf i).dstSlots = writtenSlots i := by
  cases i <;>
    first
    | rfl
    | (simp only [Instr.wellFormed, Bool.and_eq_true] at h
       simp [pathOf, onPairs, pathAddd, pathSubd, pathMultd, pathDivd, pathEqd, pathNed, pathLtd, pathGtd, pathLed,
         pathGed, pathLd, pathSd, h, Path.dstSlots, Path.dst, Tag.slots, writtenSlots, pairSlots])

theorem BranchTest.source_ne_pair (t : BranchTest) (i : Reg) : t.source ≠ .pair i := by cases t <;> simp [BranchTest.source]

/-- The value of a source depends on the slots it covers only. -/
theorem Source.value_congr (src : Source) {get get' : Slot → Word} (h : ∀ sl ∈ src.slots, get sl = get' sl) :
    src.value get = src.value get' := by
  cases src <;> simp_all [Source.value, Source.slots]

/-! ## The effect -/

@[simp] theorem SamePipeline.refl (s : State) : SamePipeline s s := by simp [SamePipeline]

theorem SamePipeline.trans {s t u : State} (h : SamePipeline s t) (h' : SamePipeline t u) : SamePipeline s u := by
  simp_all [SamePipeline]

theorem samePipeline_writeTag (s : State) (t : Tag) (v : DWord) : SamePipeline s (s.writeTag t v) := by
  simp [SamePipeline]

theorem samePipeline_setPc (s : State) (v : Word) : SamePipeline s (s.setPc v) := by simp [SamePipeline]

theorem samePipeline_advance (s : State) : SamePipeline s s.advance := by simp [SamePipeline]

/-- `runAlone` leaves all pipeline state (R13). -/
theorem runAlone_samePipeline {p : Path} {s t : State} (h : runAlone p s = .next t) : SamePipeline s t := by
  cases p <;> simp only [runAlone] at h
  case unit op dst a b => cases h; simp [SamePipeline]
  case load dst base disp n sg => split at h <;> cases h; simp [SamePipeline]
  case store base disp n data => split at h <;> cases h; simp [SamePipeline]
  case branch test disp => cases h; split <;> simp [SamePipeline]
  case jump offset link => cases h; cases link <;> simp [SamePipeline]
  case trap => cases h; simp [SamePipeline]
  case pass => cases h; simp [SamePipeline]
  case slot31 => cases h

/-- `runAlone` leaves every slot that the path does not write (R107). -/
theorem runAlone_readSlot {p : Path} {s t : State} (h : runAlone p s = .next t) {sl : Slot} (hsl : sl ∉ p.dstSlots) :
    t.readSlot sl = s.readSlot sl := by
  cases p <;> simp only [runAlone] at h
  case unit op dst a b =>
    cases h; simp only [readSlot_advance]; exact readSlot_writeTag_of_not_mem _ _ _ hsl
  case load dst base disp n sg =>
    split at h <;> cases h
    simp only [readSlot_advance]; exact readSlot_writeTag_of_not_mem _ _ _ hsl
  case store base disp n data =>
    split at h <;> cases h
    cases sl <;> rfl
  case branch test disp => cases h; split <;> simp
  case jump offset link =>
    cases h
    cases link with
    | false => simp
    | true => simpa [State.writeTag] using readSlot_writeTag_of_not_mem s (.r linkReg) (wide (s.pc + 4)) hsl
  case trap => cases h; simp
  case pass => cases h; simp
  case slot31 => cases h

/-- Only a store's path changes memory, and by one write at its effective address (R223). -/
theorem runAlone_mem {p : Path} {s t : State} (h : runAlone p s = .next t) :
    t.mem = s.mem ∨ ∃ base disp n data, p = .store base disp n data ∧
      memWrite s.cfg.memSize s.mem (effAddr (s.readReg base) disp) n (cutStore n (data.value s.readSlot)) =
        some t.mem := by
  cases p <;> simp only [runAlone] at h
  case unit op dst a b => cases h; simp
  case load dst base disp n sg => split at h <;> cases h; simp
  case store base disp n data =>
    split at h <;> cases h
    next hm => exact .inr ⟨base, disp, n, data, rfl, hm⟩
  case branch test disp => cases h; split <;> simp
  case jump offset link => cases h; cases link <;> simp
  case trap => cases h; simp
  case pass => cases h; simp
  case slot31 => cases h

/-- Only `TRAP`'s path sets `halted`; every other leaves it (R270). -/
theorem runAlone_halted {p : Path} {s t : State} (h : runAlone p s = .next t) :
    t.halted = (s.halted || p.isTrap) := by
  cases p <;> simp only [runAlone] at h
  case unit op dst a b => cases h; simp [Path.isTrap]
  case load dst base disp n sg => split at h <;> cases h; simp [Path.isTrap]
  case store base disp n data => split at h <;> cases h; simp [Path.isTrap]
  case branch test disp => cases h; split <;> simp [Path.isTrap]
  case jump offset link => cases h; cases link <;> simp [Path.isTrap]
  case trap => cases h; simp [Path.isTrap]
  case pass => cases h; simp [Path.isTrap]
  case slot31 => cases h

end Sys2Proof.Machine
end

