-- ==== Sys2Proof/Laws/Float.lean ====
section
/-! SUPPORT. The IEEE functions: how magnitudes in units grow with their patterns, and that `fpRound` is round to
nearest, ties to even. -/

namespace Sys2Proof.Machine

/-! ## Patterns without a sign -/

/-- The magnitude of a pattern without a sign bit, in units; patterns past infinity go on in the same way. -/
def magUnits (f : FloatFormat) (p : Nat) : Nat :=
  if p / 2 ^ f.fracBits = 0 then p % 2 ^ f.fracBits
  else (2 ^ f.fracBits + p % 2 ^ f.fracBits) * 2 ^ (p / 2 ^ f.fracBits - 1)

/-- The two halves of `fpRound`'s pattern: a significand `m` of at most one bit too many, shifted by `k`. -/
theorem magUnits_pack (f : FloatFormat) (k m : Nat) (hm : m ≤ 2 ^ (f.fracBits + 1)) (hk : k = 0 ∨ 2 ^ f.fracBits ≤ m) :
    magUnits f (k * 2 ^ f.fracBits + m) = m * 2 ^ k := by
  have hpos : 0 < 2 ^ f.fracBits := Nat.pow_pos (by omega)
  rw [Nat.pow_succ] at hm
  unfold magUnits
  generalize 2 ^ f.fracBits = b at *
  have key : ∀ q r, r < b → m = q * b + r → (k * b + m) / b = k + q ∧ (k * b + m) % b = r := by
    intro q r hr hmr
    subst hmr
    constructor
    · rw [show k * b + (q * b + r) = r + b * (k + q) by ring, Nat.add_mul_div_left _ _ hpos, Nat.div_eq_of_lt hr]
      omega
    · rw [show k * b + (q * b + r) = r + b * (k + q) by ring, Nat.add_mul_mod_self_left, Nat.mod_eq_of_lt hr]
  rcases Nat.lt_or_ge m b with h | h
  · obtain ⟨h1, h2⟩ := key 0 m h (by omega)
    have hk0 : k = 0 := by omega
    subst hk0
    rw [h1, h2]; simp
  · rcases Nat.lt_or_ge m (b * 2) with h' | h'
    · obtain ⟨h1, h2⟩ := key 1 (m - b) (by omega) (by omega)
      rw [h1, h2, if_neg (by omega), Nat.add_sub_cancel, Nat.add_sub_cancel' h]
    · obtain ⟨h1, h2⟩ := key 2 0 hpos (by omega)
      rw [h1, h2, if_neg (by omega), show k + 2 - 1 = k + 1 from rfl, show m = b * 2 by omega]
      ring

/-- Every pattern is a significand and a shift. -/
theorem exists_pack (f : FloatFormat) (p : Nat) :
    ∃ k m, p = k * 2 ^ f.fracBits + m ∧ m < 2 ^ (f.fracBits + 1) ∧ (k = 0 ∨ 2 ^ f.fracBits ≤ m) := by
  have hpos : 0 < 2 ^ f.fracBits := Nat.pow_pos (by omega)
  rw [Nat.pow_succ]
  generalize 2 ^ f.fracBits = b at *
  have hd := Nat.div_add_mod p b
  have hr := Nat.mod_lt p hpos
  rcases Nat.eq_zero_or_pos (p / b) with h | h
  · exact ⟨0, p % b, by rw [h] at hd; omega, by omega, .inl rfl⟩
  · refine ⟨p / b - 1, b + p % b, ?_, by omega, .inr (by omega)⟩
    obtain ⟨j, hj⟩ : ∃ j, p / b = j + 1 := ⟨p / b - 1, by omega⟩
    rw [hj] at hd
    rw [hj, Nat.add_sub_cancel]
    calc p = b * (j + 1) + p % b := hd.symm
      _ = j * b + (b + p % b) := by ring

theorem magUnits_lt_succ (f : FloatFormat) (p : Nat) : magUnits f p < magUnits f (p + 1) := by
  obtain ⟨k, m, rfl, hm, hk⟩ := exists_pack f p
  rw [Nat.add_assoc, magUnits_pack f k m hm.le hk, magUnits_pack f k (m + 1) (by omega) (by omega)]
  exact Nat.mul_lt_mul_of_pos_right (by omega) (Nat.pow_pos (by omega))

/-- A greater pattern has a greater magnitude. -/
theorem magUnits_strictMono (f : FloatFormat) : StrictMono (magUnits f) := strictMono_nat_of_lt_succ (magUnits_lt_succ f)

theorem magUnits_zero (f : FloatFormat) : magUnits f 0 = 0 := by
  simp [magUnits]

/-! ## Rounding (R182) -/

/-- The rounded pattern before it is cut off at infinity. -/
def roundedMag (f : FloatFormat) (n d : Nat) : Nat :=
  let q := n / d
  let k := if q < 2 ^ (f.fracBits + 1) then 0 else Nat.log2 q - f.fracBits
  let step := d * 2 ^ k
  let m := n / step
  let r := n % step
  k * 2 ^ f.fracBits + if step < 2 * r ∨ (2 * r = step ∧ m % 2 = 1) then m + 1 else m

theorem fpRound_eq_min (f : FloatFormat) (n d : Nat) : fpRound f n d = min (roundedMag f n d) f.infMag := rfl

/-- The rounded pattern is one of the two neighbours of the exact value: the nearer one, or of two as near the even
one. -/
theorem roundedMag_spec (f : FloatFormat) (hF : 1 ≤ f.fracBits) (n d : Nat) (hd : 0 < d) :
    ∃ p, magUnits f p * d ≤ n ∧ n < magUnits f (p + 1) * d ∧
      ((roundedMag f n d = p ∧ n - magUnits f p * d ≤ magUnits f (p + 1) * d - n ∧
          (n - magUnits f p * d = magUnits f (p + 1) * d - n → p % 2 = 0)) ∨
       (roundedMag f n d = p + 1 ∧ magUnits f (p + 1) * d - n ≤ n - magUnits f p * d ∧
          (n - magUnits f p * d = magUnits f (p + 1) * d - n → (p + 1) % 2 = 0))) := by
  obtain ⟨k, m, hkm, hm, hk, hrd⟩ : ∃ k m, m = n / (d * 2 ^ k) ∧ m < 2 ^ (f.fracBits + 1) ∧
      (k = 0 ∨ 2 ^ f.fracBits ≤ m) ∧
      roundedMag f n d = k * 2 ^ f.fracBits +
        if d * 2 ^ k < 2 * (n % (d * 2 ^ k)) ∨ (2 * (n % (d * 2 ^ k)) = d * 2 ^ k ∧ m % 2 = 1) then m + 1 else m := by
    by_cases hq : n / d < 2 ^ (f.fracBits + 1)
    · exact ⟨0, n / d, by simp, hq, .inl rfl, by simp [roundedMag, hq]⟩
    · have hne : n / d ≠ 0 := by
        intro h0; rw [h0] at hq; exact hq (Nat.pow_pos (by omega))
      have h1 : 2 ^ Nat.log2 (n / d) ≤ n / d := Nat.log2_self_le hne
      have h2 : n / d < 2 ^ (Nat.log2 (n / d) + 1) := Nat.lt_log2_self
      have h3 : f.fracBits + 1 ≤ Nat.log2 (n / d) := by
        by_contra hc
        exact hq (lt_of_lt_of_le h2 (Nat.pow_le_pow_right (by omega) (by omega)))
      refine ⟨Nat.log2 (n / d) - f.fracBits, n / (d * 2 ^ (Nat.log2 (n / d) - f.fracBits)), rfl, ?_, .inr ?_, ?_⟩
      · rw [← Nat.div_div_eq_div_mul, Nat.div_lt_iff_lt_mul (Nat.pow_pos (by omega)), ← Nat.pow_add]
        exact lt_of_lt_of_le h2 (Nat.pow_le_pow_right (by omega) (by omega))
      · rw [← Nat.div_div_eq_div_mul, Nat.le_div_iff_mul_le (Nat.pow_pos (by omega)), ← Nat.pow_add]
        exact le_trans (Nat.pow_le_pow_right (by omega) (by omega)) h1
      · simp only [roundedMag, if_neg hq]
  have hst : 0 < d * 2 ^ k := Nat.mul_pos hd (Nat.pow_pos (by omega))
  have hu : magUnits f (k * 2 ^ f.fracBits + m) * d = m * (d * 2 ^ k) := by
    rw [magUnits_pack f k m hm.le hk]; ring
  have hu' : magUnits f (k * 2 ^ f.fracBits + m + 1) * d = m * (d * 2 ^ k) + d * 2 ^ k := by
    rw [Nat.add_assoc, magUnits_pack f k (m + 1) (by omega) (by omega)]; ring
  have hn : n = m * (d * 2 ^ k) + n % (d * 2 ^ k) := by
    rw [hkm, Nat.mul_comm, Nat.div_add_mod]
  have hlt := Nat.mod_lt n hst
  have hpar : (k * 2 ^ f.fracBits + m) % 2 = m % 2 := by
    obtain ⟨F, hF'⟩ : ∃ F, f.fracBits = F + 1 := ⟨f.fracBits - 1, by omega⟩
    rw [hF', Nat.pow_succ, ← Nat.mul_assoc]; omega
  refine ⟨k * 2 ^ f.fracBits + m, ?_⟩
  rw [hu, hu', hrd]
  generalize d * 2 ^ k = st at *
  generalize n % st = r at *
  generalize m * st = ms at *
  split
  · next hc => exact ⟨by omega, by omega, .inr ⟨by omega, by omega, by omega⟩⟩
  · next hc => exact ⟨by omega, by omega, .inl ⟨by omega, by omega, by omega⟩⟩

/-- No pattern up to infinity is nearer to `n / d` units than `fpRound`'s, and of two as near it is the even one. -/
theorem fpRound_nearest (f : FloatFormat) (hF : 1 ≤ f.fracBits) (n d : Nat) (hd : 0 < d) (q : Nat) (hq : q ≤ f.infMag) :
    (((magUnits f (fpRound f n d) * d : Nat) : Int) - n).natAbs ≤ (((magUnits f q * d : Nat) : Int) - n).natAbs ∧
    ((((magUnits f (fpRound f n d) * d : Nat) : Int) - n).natAbs = (((magUnits f q * d : Nat) : Int) - n).natAbs →
      q = fpRound f n d ∨ fpRound f n d % 2 = 0) := by
  obtain ⟨p, h1, h2, h3⟩ := roundedMag_spec f hF n d hd
  have mono : ∀ a b, a ≤ b → magUnits f a * d ≤ magUnits f b * d :=
    fun a b h => Nat.mul_le_mul_right _ ((magUnits_strictMono f).monotone h)
  have smono : ∀ a b, a < b → magUnits f a * d < magUnits f b * d :=
    fun a b h => Nat.mul_lt_mul_of_pos_right (magUnits_strictMono f h) hd
  rw [fpRound_eq_min]
  by_cases hinf : p < f.infMag
  · have hmin : min (roundedMag f n d) f.infMag = roundedMag f n d := by
      rcases h3 with ⟨h, -⟩ | ⟨h, -⟩ <;> omega
    rw [hmin]
    rcases Nat.lt_trichotomy q p with hqp | rfl | hqp
    · have := smono _ _ hqp
      rcases h3 with ⟨h, h4, h5⟩ | ⟨h, h4, h5⟩ <;> rw [h] <;> omega
    · rcases h3 with ⟨h, h4, h5⟩ | ⟨h, h4, h5⟩ <;> rw [h]
      · simp
      · omega
    · rcases Nat.lt_or_ge (p + 1) q with hq1 | hq1
      · have := smono _ _ hq1
        rcases h3 with ⟨h, h4, h5⟩ | ⟨h, h4, h5⟩ <;> rw [h] <;> omega
      · have hqe : q = p + 1 := by omega
        subst hqe
        rcases h3 with ⟨h, h4, h5⟩ | ⟨h, h4, h5⟩ <;> rw [h]
        · omega
        · simp
  · have hmin : min (roundedMag f n d) f.infMag = f.infMag := by
      rcases h3 with ⟨h, -⟩ | ⟨h, -⟩ <;> omega
    rw [hmin]
    have h6 := mono _ _ (Nat.le_of_not_lt hinf)
    rcases Nat.lt_or_ge q f.infMag with hq1 | hq1
    · have := smono _ _ hq1
      omega
    · have hqe : q = f.infMag := by omega
      subst hqe
      simp

/-! ## Patterns with a sign -/

theorem infMag_lt_signBit (f : FloatFormat) : f.infMag < f.signBit := by
  unfold FloatFormat.infMag FloatFormat.signBit FloatFormat.expMax
  rw [Nat.pow_add]
  have : 0 < 2 ^ f.expBits := Nat.pow_pos (by omega)
  exact Nat.mul_lt_mul_of_pos_right (by omega) (Nat.pow_pos (by omega))

theorem fpExp_eq (f : FloatFormat) (x : Nat) : fpExp f x = x % f.signBit / 2 ^ f.fracBits := by
  unfold fpExp FloatFormat.signBit
  rw [Nat.pow_add, Nat.mul_comm, Nat.mod_mul_right_div_self]

theorem fpFrac_eq (f : FloatFormat) (x : Nat) : fpFrac f x = x % f.signBit % 2 ^ f.fracBits := by
  unfold fpFrac FloatFormat.signBit
  rw [Nat.pow_add, Nat.mod_mul_left_mod]

/-- The magnitude of a pattern is that of its bits below the sign. -/
theorem fpUnits_eq (f : FloatFormat) (x : Nat) : fpUnits f x = magUnits f (x % f.signBit) := by
  unfold fpUnits magUnits
  rw [fpExp_eq, fpFrac_eq]

theorem fpPack_mod (f : FloatFormat) (b : Bool) {m : Nat} (h : m < f.signBit) : fpPack f b m % f.signBit = m := by
  cases b <;> simp [fpPack, Nat.mod_eq_of_lt h]

theorem fpSign_fpPack (f : FloatFormat) (b : Bool) {m : Nat} (h : m < f.signBit) : fpSign f (fpPack f b m) = b := by
  have hp : 0 < f.signBit := by omega
  cases b
  · simp [fpSign, fpPack, Nat.div_eq_of_lt h]
  · simp [fpSign, fpPack, Nat.add_div_left m hp, Nat.div_eq_of_lt h]

theorem fpValue_fpPack (f : FloatFormat) (b : Bool) {m : Nat} (h : m < f.signBit) :
    fpValue f (fpPack f b m) = if b then -(magUnits f m : Int) else magUnits f m := by
  simp [fpValue, fpSign_fpPack f b h, fpUnits_eq, fpPack_mod f b h]

/-- A pattern below the sign bit's double is its sign and the rest. -/
theorem fpPack_fpSign (f : FloatFormat) {x : Nat} (h : x < 2 * f.signBit) : fpPack f (fpSign f x) (x % f.signBit) = x := by
  have hd := Nat.div_add_mod x f.signBit
  have hlt : x / f.signBit < 2 := Nat.div_lt_of_lt_mul (by omega)
  unfold fpPack fpSign
  generalize x / f.signBit = c at *
  rcases Nat.lt_or_ge c 1 with h1 | h1
  · have h0 : c = 0 := by omega
    rw [h0] at hd ⊢; simpa using hd
  · have h0 : c = 1 := by omega
    rw [h0] at hd ⊢; simpa using hd

theorem fpIsNaN_iff (f : FloatFormat) (x : Nat) : fpIsNaN f x = true ↔ f.infMag < x % f.signBit := by
  have hp : 0 < 2 ^ f.fracBits := Nat.pow_pos (by omega)
  have hd := Nat.div_add_mod (x % f.signBit) (2 ^ f.fracBits)
  have hm : x % f.signBit / 2 ^ f.fracBits < 2 ^ f.expBits := by
    apply Nat.div_lt_of_lt_mul
    rw [← Nat.pow_add, Nat.add_comm]
    exact Nat.mod_lt _ (Nat.pow_pos (by omega))
  have he : 0 < 2 ^ f.expBits := Nat.pow_pos (by omega)
  simp only [fpIsNaN, fpExp_eq, fpFrac_eq, Bool.and_eq_true, decide_eq_true_eq, FloatFormat.infMag]
  generalize x % f.signBit = y at *
  have hr := Nat.mod_lt y hp
  have hmax : f.expMax = 2 ^ f.expBits - 1 := rfl
  constructor
  · rintro ⟨h1, h2⟩
    rw [h1, Nat.mul_comm] at hd; omega
  · intro h
    have h1 : f.expMax ≤ y / 2 ^ f.fracBits := (Nat.le_div_iff_mul_le hp).2 h.le
    have h2 : y / 2 ^ f.fracBits = f.expMax := by omega
    refine ⟨h2, fun h0 => ?_⟩
    rw [h2, h0, Nat.mul_comm] at hd; omega

theorem fpIsInf_iff (f : FloatFormat) (x : Nat) : fpIsInf f x = true ↔ x % f.signBit = f.infMag := by
  have hp : 0 < 2 ^ f.fracBits := Nat.pow_pos (by omega)
  have hd := Nat.div_add_mod (x % f.signBit) (2 ^ f.fracBits)
  simp only [fpIsInf, fpExp_eq, fpFrac_eq, Bool.and_eq_true, decide_eq_true_eq, FloatFormat.infMag]
  generalize x % f.signBit = y at *
  constructor
  · rintro ⟨h1, h2⟩; rw [← hd, h1, h2, Nat.mul_comm, Nat.add_zero]
  · intro h; rw [h, Nat.mul_div_cancel _ hp, Nat.mul_mod_left]; exact ⟨rfl, rfl⟩

theorem fpIsZero_iff (f : FloatFormat) (x : Nat) : fpIsZero f x = true ↔ x % f.signBit = 0 := by
  have hp : 0 < 2 ^ f.fracBits := Nat.pow_pos (by omega)
  have hd := Nat.div_add_mod (x % f.signBit) (2 ^ f.fracBits)
  simp only [fpIsZero, fpExp_eq, fpFrac_eq, Bool.and_eq_true, decide_eq_true_eq]
  generalize x % f.signBit = y at *
  constructor
  · rintro ⟨h1, h2⟩; rw [← hd, h1, h2]; simp
  · rintro rfl; simp

/-- Zero is the pattern of no units. -/
theorem fpUnits_eq_zero_iff (f : FloatFormat) (x : Nat) : fpUnits f x = 0 ↔ fpIsZero f x = true := by
  rw [fpIsZero_iff, fpUnits_eq]
  constructor
  · intro h
    by_contra hc
    have := magUnits_strictMono f (Nat.pos_of_ne_zero hc)
    omega
  · intro h; rw [h, magUnits_zero]

/-- `fpRound` under the sign of the exact value is correctly rounded among all patterns. -/
theorem correctlyRounded_fpPack (f : FloatFormat) (hF : 1 ≤ f.fracBits) (b : Bool) (num : Int) (d : Nat) (hd : 0 < d)
    (hb : num < 0 → b = true) (hb' : 0 < num → b = false) :
    CorrectlyRounded f (fpPack f b (fpRound f num.natAbs d)) num d := by
  have hlt : fpRound f num.natAbs d < f.signBit :=
    lt_of_le_of_lt (by rw [fpRound_eq_min]; exact Nat.min_le_right _ _) (infMag_lt_signBit f)
  have hsb : f.signBit % 2 = 0 := by
    obtain ⟨n, hn⟩ : ∃ n, f.expBits + f.fracBits = n + 1 := ⟨f.expBits + f.fracBits - 1, by omega⟩
    rw [FloatFormat.signBit, hn, Nat.pow_succ]; omega
  have herr : fpError f (fpPack f b (fpRound f num.natAbs d)) num d =
      (((magUnits f (fpRound f num.natAbs d) * d : Nat) : Int) - num.natAbs).natAbs := by
    rw [fpError, fpValue_fpPack f b hlt]
    push_cast
    cases b
    · have : 0 ≤ num := by by_contra hc; have := hb (by omega); simp at this
      have e : |num| = num := abs_of_nonneg this
      simp [e]
    · have : num ≤ 0 := by by_contra hc; have := hb' (by omega); simp at this
      have e : |num| = -num := abs_of_nonpos this
      simp only [if_true, e]
      rw [← Int.natAbs_neg]; congr 1; ring
  have hpar : fpPack f b (fpRound f num.natAbs d) % 2 = fpRound f num.natAbs d % 2 := by
    cases b <;> simp [fpPack, Nat.add_mod, hsb]
  intro q hq hnan
  have hq2 : q < 2 * f.signBit := by
    rw [FloatFormat.signBit, ← Nat.pow_succ']; convert hq using 2; omega
  have hqm : q % f.signBit ≤ f.infMag := by
    by_contra hc
    rw [(fpIsNaN_iff f q).2 (by omega)] at hnan; cases hnan
  have hqv : fpError f q num d = (((if fpSign f q then -(magUnits f (q % f.signBit) : Int)
      else magUnits f (q % f.signBit)) * d) - num).natAbs := by
    rw [fpError, fpValue, fpUnits_eq]
  obtain ⟨n1, n2⟩ := fpRound_nearest f hF num.natAbs d hd (q % f.signBit) hqm
  obtain ⟨z1, z2⟩ := fpRound_nearest f hF num.natAbs d hd 0 (Nat.zero_le _)
  rw [magUnits_zero] at z1 z2
  rw [herr, hqv, hpar]
  have hU : (0 : Int) ≤ (magUnits f (q % f.signBit) : Int) * d := by positivity
  push_cast at n1 n2 z1 z2 ⊢
  by_cases hs : fpSign f q = b
  · have e : (((if fpSign f q then -(magUnits f (q % f.signBit) : Int) else magUnits f (q % f.signBit)) * d) -
        num).natAbs = ((magUnits f (q % f.signBit) : Int) * d - |num|).natAbs := by
      rw [hs]
      cases b
      · have : 0 ≤ num := by by_contra hc; have := hb (by omega); simp at this
        simp [abs_of_nonneg this]
      · have : num ≤ 0 := by by_contra hc; have := hb' (by omega); simp at this
        rw [abs_of_nonpos this, ← Int.natAbs_neg]; simp only [if_true]; congr 1; ring
    rw [e]
    refine ⟨n1, fun h => (n2 h).imp (fun h' => ?_) id⟩
    rw [← fpPack_fpSign f hq2, hs, h']
  · have e : (((if fpSign f q then -(magUnits f (q % f.signBit) : Int) else magUnits f (q % f.signBit)) * d) -
        num).natAbs = ((magUnits f (q % f.signBit) : Int) * d + |num|).natAbs := by
      cases b
      · have h0 : fpSign f q = true := by simpa using hs
        have : 0 ≤ num := by by_contra hc; have := hb (by omega); simp at this
        rw [abs_of_nonneg this, h0, ← Int.natAbs_neg]; simp only [if_true]; congr 1; ring
      · have h0 : fpSign f q = false := by simpa using hs
        have : num ≤ 0 := by by_contra hc; have := hb' (by omega); simp at this
        rw [abs_of_nonpos this, h0]; simp
        rfl
    rw [e]
    have ha : 0 ≤ |num| := abs_nonneg num
    generalize (magUnits f (q % f.signBit) : Int) * d = U at *
    generalize |num| = a at *
    refine ⟨by omega, fun h => .inr ?_⟩
    rcases z2 (by omega) with h0 | h0
    · rw [← h0]
    · exact h0

/-- The rounded pattern is no NaN. -/
theorem fpIsNaN_fpPack_fpRound (f : FloatFormat) (b : Bool) (n d : Nat) :
    fpIsNaN f (fpPack f b (fpRound f n d)) = false := by
  have h : fpRound f n d ≤ f.infMag := by rw [fpRound_eq_min]; exact Nat.min_le_right _ _
  have hlt := lt_of_le_of_lt h (infMag_lt_signBit f)
  rw [Bool.eq_false_iff, ne_eq, fpIsNaN_iff, fpPack_mod f b hlt]
  omega

end Sys2Proof.Machine
end

