-- ==== Sys2Proof/Laws/Interface.lean ====
section
/-! SUPPORT. A program of one instruction: what loading it leaves, and the machine clocked up to its last effect. -/

namespace Sys2Proof.Machine

/-! ## The machine before its first cycle -/

@[simp] theorem State.beforeFirstCycle_cfg (s : State) : s.beforeFirstCycle.cfg = s.cfg := rfl
@[simp] theorem State.beforeFirstCycle_regs (s : State) : s.beforeFirstCycle.regs = s.regs := rfl
@[simp] theorem State.beforeFirstCycle_fregs (s : State) : s.beforeFirstCycle.fregs = s.fregs := rfl
@[simp] theorem State.beforeFirstCycle_fps (s : State) : s.beforeFirstCycle.fps = s.fps := rfl
@[simp] theorem State.beforeFirstCycle_pc (s : State) : s.beforeFirstCycle.pc = s.pc := rfl
@[simp] theorem State.beforeFirstCycle_mem (s : State) : s.beforeFirstCycle.mem = s.mem := rfl

/-- A state after reset is its own state before the first cycle. -/
@[simp] theorem beforeFirstCycle_resetWith (cfg : Configuration) (image : Memory) (start : Word) :
    (State.resetWith cfg image start).beforeFirstCycle = State.resetWith cfg image start := rfl

/-- Before its first cycle a machine is at rest, if its configuration is within the bounds of R8. -/
@[simp] theorem atRest_beforeFirstCycle (s : State) : atRest s.beforeFirstCycle = s.cfg.wf := by
  simp [atRest, State.beforeFirstCycle, State.resetWith]

@[simp] theorem State.withWordAtPc_cfg (s : State) (nbits w : Nat) : (s.withWordAtPc nbits w).cfg = s.cfg := rfl
@[simp] theorem State.withWordAtPc_regs (s : State) (nbits w : Nat) : (s.withWordAtPc nbits w).regs = s.regs := rfl
@[simp] theorem State.withWordAtPc_fregs (s : State) (nbits w : Nat) : (s.withWordAtPc nbits w).fregs = s.fregs := rfl
@[simp] theorem State.withWordAtPc_fps (s : State) (nbits w : Nat) : (s.withWordAtPc nbits w).fps = s.fps := rfl
@[simp] theorem State.withWordAtPc_pc (s : State) (nbits w : Nat) : (s.withWordAtPc nbits w).pc = s.pc := rfl
@[simp] theorem State.withWordAtPc_mem (s : State) (nbits w : Nat) :
    (s.withWordAtPc nbits w).mem = storeBytes s.mem s.pc.toNat (tableBytes nbits w) := rfl

/-- Loading one instruction leaves the machine at rest. -/
@[simp] theorem atRest_withWordAtPc (s : State) (nbits w : Nat) : atRest (s.withWordAtPc nbits w) = s.cfg.wf :=
  atRest_beforeFirstCycle s

/-! ## Clocked up to an effect -/

/-- Everything one more cycle can do. -/
theorem runWhileNext_succ (n : Nat) (s : State) :
    (∃ t, step s = .next t ∧ runWhileNext (n + 1) s = runWhileNext n t) ∨
    ((∀ t, step s ≠ .next t) ∧ runWhileNext (n + 1) s = s) := by
  unfold step
  rw [runWhileNext]
  cases cycle s with
  | next t => exact .inl ⟨t, rfl, rfl⟩
  | fault f => exact .inr ⟨fun _ h => Host.Outcome.noConfusion rfl rfl rfl (heq_of_eq h), rfl⟩
  | refused r => exact .inr ⟨fun _ h => Host.Outcome.noConfusion rfl rfl rfl (heq_of_eq h), rfl⟩

/-- No cycle of a run. -/
theorem core_run_zero (s : State) : Sys2Proof.core.run 0 s = .next s := rfl

/-- The first cycle of a run that answers a state. -/
theorem core_run_of_next {s t : State} (h : step s = .next t) (n : Nat) :
    Sys2Proof.core.run (n + 1) s = Sys2Proof.core.run n t := by
  refine (Host.Core.run.eq_2 Sys2Proof.core s n).trans ?_
  rw [show Sys2Proof.core.step s = .next t from h]

/-- A run that answers a state has a first cycle that does. -/
theorem core_run_succ_eq_next {n : Nat} {s t : State} (h : Sys2Proof.core.run (n + 1) s = .next t) :
    ∃ u, step s = .next u ∧ Sys2Proof.core.run n u = .next t := by
  have h' := (Host.Core.run.eq_2 Sys2Proof.core s n).symm.trans h
  cases e : step s with
  | next u => exact ⟨u, rfl, (core_run_of_next e n).symm.trans h⟩
  | fault f => rw [show Sys2Proof.core.step s = .fault f from e] at h'; cases h'
  | refused r => rw [show Sys2Proof.core.step s = .refused r from e] at h'; cases h'

/-- Where a run of `n` cycles answers a state, that is the state after `n` cycles. -/
theorem runWhileNext_of_run {n : Nat} {s t : State} (h : Sys2Proof.core.run n s = .next t) : runWhileNext n s = t := by
  induction n generalizing s with
  | zero => cases h; rfl
  | succ n ih =>
    obtain ⟨u, e, hu⟩ := core_run_succ_eq_next h
    rcases runWhileNext_succ n s with ⟨v, e1, e2⟩ | ⟨e1, -⟩
    · rw [e] at e1; cases e1; rw [e2]; exact ih hu
    · exact absurd e (e1 u)

/-- A state that no cycle leaves is where the clock stops. -/
theorem runWhileNext_of_stuck {s : State} (h : ∀ t, step s ≠ .next t) (n : Nat) : runWhileNext n s = s := by
  cases n with
  | zero => rfl
  | succ n =>
    rcases runWhileNext_succ n s with ⟨t, e, -⟩ | ⟨-, e⟩
    · exact absurd e (h t)
    · exact e

/-- Cycles count together. -/
theorem runWhileNext_add (m n : Nat) (s : State) : runWhileNext (m + n) s = runWhileNext n (runWhileNext m s) := by
  induction m generalizing s with
  | zero => simp [runWhileNext]
  | succ m ih =>
    rw [Nat.add_right_comm]
    rcases runWhileNext_succ (m + n) s with ⟨t, e, e1⟩ | ⟨e, e1⟩
    · rcases runWhileNext_succ m s with ⟨t', e', e2⟩ | ⟨e', -⟩
      · rw [e] at e'; cases e'; rw [e1, e2, ih]
      · exact absurd e (e' t)
    · rw [e1, runWhileNext_of_stuck e, runWhileNext_of_stuck e]

end Sys2Proof.Machine
end

