-- ==== Sys2Proof/Laws/Units.lean ====
section
/-! SUPPORT. The functional units and their pools. -/

namespace Sys2Proof.Machine

/-! ## One unit -/

@[simp] theorem tick_idle : FuncUnit.idle.tick = .idle := rfl
@[simp] theorem tick_done (v : DWord) (t : Tag) : (FuncUnit.done v t).tick = .done v t := rfl

/-- A unit in its last cycle becomes Done with its operation's result (R296). -/
theorem tick_last (a b : DWord) (op : UnitOp) (t : Tag) :
    (FuncUnit.busy a b op 1 t).tick = .done (compute op a b) t := rfl

/-- Before its last cycle a unit stays Busy, one cycle nearer (R296). -/
theorem tick_busy (a b : DWord) (op : UnitOp) (n : Nat) (t : Tag) :
    (FuncUnit.busy a b op (n + 2) t).tick = .busy a b op (n + 1) t := rfl

/-- `load` answers exactly on an Idle unit (R292, R293). -/
theorem load_eq_some_iff (u u' : FuncUnit) (t : Tag) (a b : DWord) (op : UnitOp) (l : Nat) :
    u.load t a b op l = some u' ↔ u = .idle ∧ u' = .busy a b op l t := by
  cases u <;> simp [FuncUnit.load, eq_comm]

/-! ## Pools -/

@[simp] theorem tickPool_length (p : List FuncUnit) : (tickPool p).length = p.length := by simp [tickPool]

@[simp] theorem unloadPool_length (p : List FuncUnit) : (unloadPool p).2.length = p.length := by
  induction p with
  | nil => rfl
  | cons u us ih => cases u <;> simp_all [unloadPool, FuncUnit.takeResult]

/-- The first Idle unit is Idle, and none before it is (R302). -/
theorem firstIdle_eq_some_iff (p : List FuncUnit) (k : Nat) :
    firstIdle p = some k ↔ p[k]? = some .idle ∧ ∀ j < k, p[j]? ≠ some .idle := by
  induction p generalizing k with
  | nil => simp [firstIdle]
  | cons u us ih =>
    cases u with
    | idle =>
      simp only [firstIdle]
      constructor
      · rintro ⟨⟩; simp
      · rintro ⟨-, h⟩
        cases k with
        | zero => rfl
        | succ k => exact absurd rfl (h 0 (by omega))
    | busy a b op r t =>
      cases k with
      | zero => simp [firstIdle]
      | succ k =>
        simp only [firstIdle, Option.map_eq_some_iff, Nat.add_right_cancel_iff, exists_eq_right, ih,
          List.getElem?_cons_succ]
        refine and_congr_right fun _ => ⟨fun h j hj => ?_, fun h j hj => ?_⟩
        · cases j with
          | zero => simp
          | succ j => simpa using h j (by omega)
        · simpa using h (j + 1) (by omega)
    | done v t =>
      cases k with
      | zero => simp [firstIdle]
      | succ k =>
        simp only [firstIdle, Option.map_eq_some_iff, Nat.add_right_cancel_iff, exists_eq_right, ih,
          List.getElem?_cons_succ]
        refine and_congr_right fun _ => ⟨fun h j hj => ?_, fun h j hj => ?_⟩
        · cases j with
          | zero => simp
          | succ j => simpa using h j (by omega)
        · simpa using h (j + 1) (by omega)

/-- `load` on an Idle unit of a pool replaces that unit and no other. -/
theorem loadPool_of_idle (p : List FuncUnit) (k : Nat) (t : Tag) (a b : DWord) (op : UnitOp) (l : Nat)
    (h : p[k]? = some .idle) : loadPool p k t a b op l = some (p.set k (.busy a b op l t)) := by
  induction p generalizing k with
  | nil => simp at h
  | cons u us ih =>
    cases k with
    | zero => simp at h; subst h; rfl
    | succ k => simp at h; simp [loadPool, ih k h]

/-- Dispatch never violates the precondition of `load` (R354). -/
theorem loadPool_firstIdle {p : List FuncUnit} {k : Nat} (t : Tag) (a b : DWord) (op : UnitOp) (l : Nat)
    (h : firstIdle p = some k) : loadPool p k t a b op l = some (p.set k (.busy a b op l t)) :=
  loadPool_of_idle p k t a b op l ((firstIdle_eq_some_iff p k).1 h).1

/-- No result is taken exactly where no unit is Done, and then nothing changes (R298). -/
theorem unloadPool_eq_none_iff (p : List FuncUnit) :
    (unloadPool p).1 = none ↔ ∀ u ∈ p, ∀ v t, u ≠ .done v t := by
  induction p with
  | nil => simp [unloadPool]
  | cons u us ih => cases u <;> simp_all [unloadPool, FuncUnit.takeResult]

theorem unloadPool_of_none (p : List FuncUnit) (h : (unloadPool p).1 = none) : (unloadPool p).2 = p := by
  induction p with
  | nil => rfl
  | cons u us ih => cases u <;> simp_all [unloadPool, FuncUnit.takeResult]

/-- A result taken is that of one Done unit, which becomes Idle; units before it are not Done and stay (R299). -/
theorem unloadPool_eq_some {p : List FuncUnit} {rec : Record} (h : (unloadPool p).1 = some rec) :
    ∃ k, p[k]? = some (.done rec.value rec.tag) ∧ (∀ j < k, ∀ v t, p[j]? ≠ some (.done v t)) ∧
      (unloadPool p).2 = p.set k .idle := by
  induction p with
  | nil => simp [unloadPool] at h
  | cons u us ih =>
    cases u with
    | done v t =>
      simp [unloadPool, FuncUnit.takeResult] at h
      subst h
      exact ⟨0, by simp [unloadPool, FuncUnit.takeResult]⟩
    | idle =>
      simp [unloadPool, FuncUnit.takeResult] at h
      obtain ⟨k, h1, h2, h3⟩ := ih h
      refine ⟨k + 1, by simpa using h1, fun j hj v t => ?_, by simp [unloadPool, FuncUnit.takeResult, h3]⟩
      cases j with
      | zero => simp
      | succ j => simpa using h2 j (by omega) v t
    | busy a b op r t =>
      simp [unloadPool, FuncUnit.takeResult] at h
      obtain ⟨k, h1, h2, h3⟩ := ih h
      refine ⟨k + 1, by simpa using h1, fun j hj v t => ?_, by simp [unloadPool, FuncUnit.takeResult, h3]⟩
      cases j with
      | zero => simp
      | succ j => simpa using h2 j (by omega) v t

end Sys2Proof.Machine
end

