-- ==== Sys2Proof/Laws/Pipeline.lean ====
section
/-! SUPPORT. The pipeline engine: what each stage can do, said once, and the one inversion lemma of a cycle. -/

namespace Sys2Proof.Machine

/-! ## Memory stage (R325, R363) -/

/-- Everything the Memory stage can answer. -/
theorem memoryStage_eq_ok {s s1 : State} {lmd : Option Record} (h : memoryStage s = .ok (s1, lmd)) :
    (s.exMem.acc = .none ∧ s1 = redirect s ∧ lmd = none) ∨
    (∃ tag addr n sg v, s.exMem.acc = .read tag addr n sg ∧ memRead s.cfg.memSize s.mem addr n = some v ∧
      s1 = redirect s ∧ lmd = some { tag := tag, value := extendLoad n sg v }) ∨
    (∃ addr n payload m, s.exMem.acc = .write addr n payload ∧
      memWrite s.cfg.memSize s.mem addr n payload = some m ∧ s1 = redirect { s with mem := m } ∧ lmd = none) := by
  simp only [memoryStage] at h
  split at h
  · next e => cases h; exact .inl ⟨e, rfl, rfl⟩
  · next tag addr n sg e =>
    split at h
    · cases h
    · next v hv => cases h; exact .inr (.inl ⟨tag, addr, n, sg, v, e, hv, rfl, rfl⟩)
  · next addr n payload e =>
    split at h
    · cases h
    · next m hm => cases h; exact .inr (.inr ⟨addr, n, payload, m, e, hm, rfl, rfl⟩)

/-- The Memory stage faults exactly on an access out of range (R403). -/
theorem memoryStage_eq_error_iff (s : State) (f : Fault) :
    memoryStage s = .error f ↔ ∃ addr, f = .outOfRangeData addr ∧
      ((∃ tag n sg, s.exMem.acc = .read tag addr n sg ∧ s.cfg.memSize < addr.toNat + n.bytes) ∨
       (∃ n payload, s.exMem.acc = .write addr n payload ∧ s.cfg.memSize < addr.toNat + n.bytes)) := by
  cases e : s.exMem.acc with
  | none => simp [memoryStage, e]
  | read tag addr n sg =>
    simp only [memoryStage, e]
    split
    · next h =>
      rw [memRead_eq_none_iff] at h
      constructor
      · rintro ⟨⟩; exact ⟨addr, rfl, .inl ⟨tag, n, sg, rfl, h⟩⟩
      · rintro ⟨a, rfl, ⟨t', n', sg', ⟨⟩, -⟩ | ⟨n', p', ⟨⟩, -⟩⟩; rfl
    · next v h =>
      simp only [reduceCtorEq, false_iff]
      rintro ⟨a, -, ⟨t', n', sg', ⟨⟩, hlt⟩ | ⟨n', p', ⟨⟩, -⟩⟩
      rw [(memRead_eq_none_iff ..).2 hlt] at h; cases h
  | write addr n payload =>
    simp only [memoryStage, e]
    split
    · next h =>
      rw [memWrite_eq_none_iff] at h
      constructor
      · rintro ⟨⟩; exact ⟨addr, rfl, .inr ⟨n, payload, rfl, h⟩⟩
      · rintro ⟨a, rfl, ⟨t', n', sg', ⟨⟩, -⟩ | ⟨n', p', ⟨⟩, -⟩⟩; rfl
    · next v h =>
      simp only [reduceCtorEq, false_iff]
      rintro ⟨a, -, ⟨t', n', sg', ⟨⟩, -⟩ | ⟨n', p', ⟨⟩, hlt⟩⟩
      rw [(memWrite_eq_none_iff ..).2 hlt] at h; cases h

/-- What the Memory stage leaves: all but memory and `PC`. -/
theorem memoryStage_frame {s s1 : State} {lmd : Option Record} (h : memoryStage s = .ok (s1, lmd)) :
    ∃ m pc, s1 = { s with mem := m, pc := pc } ∧ pc = if s.exMem.cond then s.exMem.aluout else s.pc := by
  rcases memoryStage_eq_ok h with ⟨-, rfl, -⟩ | ⟨_, _, _, _, _, -, -, rfl, -⟩ | ⟨_, _, _, m, -, -, rfl, -⟩
  · exact ⟨s.mem, _, by unfold redirect; split <;> simp_all [State.setPc], rfl⟩
  · exact ⟨s.mem, _, by unfold redirect; split <;> simp_all [State.setPc], rfl⟩
  · exact ⟨m, _, by unfold redirect; split <;> simp_all [State.setPc], rfl⟩

/-! ## Writeback stage (R335 to R338) -/

@[simp] theorem commitOpt_none (s : State) : s.commitOpt none = s := rfl
@[simp] theorem commitOpt_some (s : State) (rec : Record) : s.commitOpt (some rec) = s.commit rec := rfl

/-- A commit that may be absent leaves every slot and marker that no tag covers. -/
theorem commitOpt_frame (s : State) (o : Option Record) {sl : Slot} (h : ∀ rec, o = some rec → sl ∉ rec.tag.slots) :
    (s.commitOpt o).readSlot sl = s.readSlot sl ∧ (s.commitOpt o).marker sl = s.marker sl := by
  cases o with
  | none => exact ⟨rfl, rfl⟩
  | some rec => exact commit_frame s rec (h rec rfl)

/-- Marker of a slot after a commit that may be absent. -/
theorem commitOpt_marker (s : State) (o : Option Record) (sl : Slot) :
    (s.commitOpt o).marker sl = (s.marker sl && !(o.any fun rec => decide (sl ∈ rec.tag.slots))) := by
  cases o with
  | none => simp
  | some rec => by_cases h : sl ∈ rec.tag.slots <;> simp [State.commit, marker_setMarkers, h]

/-- Writeback halts exactly on a `TRAP` (R338). -/
@[simp] theorem writebackStage_halted (s : State) :
    (writebackStage s).halted = (s.halted || (pathOfWord s.memWb.iw).isTrap) := by
  unfold writebackStage haltWriteback
  split <;> simp_all

/-- A slot that no record and no link covers is left by Writeback, and so is its marker. -/
theorem writebackStage_frame (s : State) {sl : Slot} (h : ∀ rec ∈ s.memWb.records, sl ∉ rec.tag.slots)
    (hl : (pathOfWord s.memWb.iw).isLink = true → sl ≠ .r linkReg) :
    (writebackStage s).readSlot sl = s.readSlot sl ∧ (writebackStage s).marker sl = s.marker sl := by
  have hc : (commitRecords s).readSlot sl = s.readSlot sl ∧ (commitRecords s).marker sl = s.marker sl := by
    have f : ∀ (t : State) (o : Option Record), o.toList ⊆ s.memWb.records →
        (t.commitOpt o).readSlot sl = t.readSlot sl ∧ (t.commitOpt o).marker sl = t.marker sl :=
      fun t o ho => commitOpt_frame t o fun rec e => h rec (ho (by simp [e]))
    unfold commitRecords
    rw [(f _ s.memWb.lmd (by intro a; simp +contextual [MemWb.records])).1,
      (f _ s.memWb.lmd (by intro a; simp +contextual [MemWb.records])).2,
      (f _ s.memWb.resFdiv (by intro a; simp +contextual [MemWb.records])).1,
      (f _ s.memWb.resFdiv (by intro a; simp +contextual [MemWb.records])).2,
      (f _ s.memWb.resFmul (by intro a; simp +contextual [MemWb.records])).1,
      (f _ s.memWb.resFmul (by intro a; simp +contextual [MemWb.records])).2,
      (f _ s.memWb.resFadd (by intro a; simp +contextual [MemWb.records])).1,
      (f _ s.memWb.resFadd (by intro a; simp +contextual [MemWb.records])).2,
      (f _ s.memWb.resAlu (by intro a; simp +contextual [MemWb.records])).1,
      (f _ s.memWb.resAlu (by intro a; simp +contextual [MemWb.records])).2]
    exact ⟨rfl, rfl⟩
  have hk : (linkWriteback s.memWb (commitRecords s)).readSlot sl = s.readSlot sl ∧
      (linkWriteback s.memWb (commitRecords s)).marker sl = s.marker sl := by
    unfold linkWriteback
    split
    · next e =>
      have hne := hl e
      constructor
      · rw [readSlot_setMarker]
        have := readSlot_writeTag_of_not_mem (commitRecords s) (.r linkReg) (wide (s.memWb.pc + 4)) (sl := sl)
          (by simpa [Tag.slots] using hne)
        rw [show (commitRecords s).writeReg linkReg (s.memWb.pc + 4) =
          (commitRecords s).writeTag (.r linkReg) (wide (s.memWb.pc + 4)) by simp [State.writeTag], this, hc.1]
      · rw [marker_setMarker, if_neg hne,
          show (commitRecords s).writeReg linkReg (s.memWb.pc + 4) =
          (commitRecords s).writeTag (.r linkReg) (wide (s.memWb.pc + 4)) by simp [State.writeTag],
          marker_writeTag, hc.2]
    · exact hc
  unfold writebackStage haltWriteback
  split
  · exact ⟨by rw [readSlot_halt]; exact hk.1, by rw [← hk.2]; cases sl <;> rfl⟩
  · exact hk

/-! ## Execute stage, phase 2 (R353 to R357) -/

/-- Dispatch into a unit never violates the precondition of `load` (R354): it takes the first Idle unit or finds none. -/
theorem issueUnit_eq (op : UnitOp) (dst : Tag) (e : IdEx) (s : State) :
    issueUnit op dst e s =
      match firstIdle (s.pool op.unitClass) with
      | none => .noUnit
      | some k =>
        .taken ((s.setPool op.unitClass
          ((s.pool op.unitClass).set k (.busy e.a e.b op (latency s.cfg op.unitClass) dst))).setMarkers dst.slots true)
          (plainExMem e) := by
  unfold issueUnit
  cases h : firstIdle (s.pool op.unitClass) with
  | none => rfl
  | some k => simp only [loadPool_firstIdle _ _ _ _ _ h]

/-- Execute phase 2 raises no fatal condition (R354). -/
theorem issuePath_ne_fault (p : Path) (e : IdEx) (s : State) (f : Fault) : issuePath p e s ≠ .fault f := by
  cases p <;> simp only [issuePath] <;> try exact fun h => Issue.noConfusion h
  rw [issueUnit_eq]; split <;> exact fun h => Issue.noConfusion h

/-- Execute phase 2 refuses exactly the double forms that name slot 31 (R341). -/
theorem issuePath_eq_refused_iff (p : Path) (e : IdEx) (s : State) (r : Refusal) :
    issuePath p e s = .refused r ↔ p = .slot31 ∧ r = .doubleAtSlot31 := by
  cases p <;> simp only [issuePath] <;> try simp [eq_comm]
  rw [issueUnit_eq]; split <;> simp

/-- Execute phase 2 finds no unit exactly for a unit operation whose class has no Idle unit (R354). -/
theorem issuePath_eq_noUnit_iff (p : Path) (e : IdEx) (s : State) :
    issuePath p e s = .noUnit ↔ ∃ op dst a b, p = .unit op dst a b ∧ firstIdle (s.pool op.unitClass) = none := by
  cases p <;> simp only [issuePath] <;> try simp
  rw [issueUnit_eq]; split <;> simp_all

/-- What Execute leaves when it takes an instruction: the state but for the pool it loads and the markers of the
destination, which are set (R356). -/
theorem issuePath_taken {p : Path} {e : IdEx} {s s' : State} {x : ExMem} (h : issuePath p e s = .taken s' x) :
    (s' = s.setMarkers p.dstSlots true ∨
      ∃ op dst a b k, p = .unit op dst a b ∧ firstIdle (s.pool op.unitClass) = some k ∧
        s' = (s.setPool op.unitClass
          ((s.pool op.unitClass).set k (.busy e.a e.b op (latency s.cfg op.unitClass) dst))).setMarkers p.dstSlots true) ∧
    x.iw = e.iw ∧ x.pc = e.pc := by
  cases p <;> simp only [issuePath] at h
  case unit op dst a b =>
    rw [issueUnit_eq] at h
    split at h
    · cases h
    · next k hk => cases h; exact ⟨.inr ⟨op, dst, a, b, k, rfl, hk, rfl⟩, rfl, rfl⟩
  case load => cases h; exact ⟨.inl rfl, rfl, rfl⟩
  case store => cases h; exact ⟨.inl rfl, rfl, rfl⟩
  case branch => cases h; exact ⟨.inl rfl, rfl, rfl⟩
  case jump offset link => cases h; cases link <;> exact ⟨.inl rfl, rfl, rfl⟩
  case trap => cases h; exact ⟨.inl rfl, rfl, rfl⟩
  case pass => cases h; exact ⟨.inl rfl, rfl, rfl⟩
  case slot31 => cases h

/-- What Execute leaves when it dispatches to a unit (R353, R354). -/
theorem issuePath_taken_unit {op : UnitOp} {dst : Tag} {a b : Source} {e : IdEx} {s s' : State} {x : ExMem}
    (h : issuePath (.unit op dst a b) e s = .taken s' x) :
    ∃ k, (s.pool op.unitClass)[k]? = some .idle ∧ x = plainExMem e ∧
      s' = (s.setPool op.unitClass
        ((s.pool op.unitClass).set k (.busy e.a e.b op (latency s.cfg op.unitClass) dst))).setMarkers dst.slots true := by
  simp only [issuePath] at h
  rw [issueUnit_eq] at h
  split at h
  · cases h
  · next k hk => cases h; exact ⟨k, ((firstIdle_eq_some_iff _ _).1 hk).1, rfl, rfl⟩

/-- What Execute leaves when it takes an instruction that needs no unit. -/
theorem issuePath_taken_other {p : Path} {e : IdEx} {s s' : State} {x : ExMem} (h : issuePath p e s = .taken s' x)
    (hp : ∀ op dst a b, p ≠ .unit op dst a b) : s' = s.setMarkers p.dstSlots true := by
  rcases (issuePath_taken h).1 with h' | ⟨op, dst, a, b, _, e', _⟩
  · exact h'
  · exact absurd e' (hp op dst a b)

/-- A taken instruction's markers (R356). -/
theorem issuePath_marker {p : Path} {e : IdEx} {s s' : State} {x : ExMem} (h : issuePath p e s = .taken s' x)
    (sl : Slot) : s'.marker sl = (decide (sl ∈ p.dstSlots) || s.marker sl) := by
  rcases (issuePath_taken h).1 with rfl | ⟨op, dst, a, b, k, -, -, rfl⟩ <;>
    by_cases hs : sl ∈ p.dstSlots <;> simp [marker_setMarkers, hs]

/-- Execute writes no register, no memory and no `PC`. -/
theorem issuePath_frame {p : Path} {e : IdEx} {s s' : State} {x : ExMem} (h : issuePath p e s = .taken s' x) :
    s'.cfg = s.cfg ∧ s'.regs = s.regs ∧ s'.fregs = s.fregs ∧ s'.fps = s.fps ∧ s'.pc = s.pc ∧ s'.mem = s.mem ∧
    s'.ifId = s.ifId ∧ s'.idEx = s.idEx ∧ s'.exMem = s.exMem ∧ s'.memWb = s.memWb ∧ s'.halted = s.halted ∧
    s'.fatal = s.fatal := by
  rcases (issuePath_taken h).1 with rfl | ⟨op, dst, a, b, k, -, -, rfl⟩ <;> simp

/-! ## Decode and Fetch -/

theorem decodeStage_eq_some {fresh : List Record} {d : IfId} {s : State} {y : IdEx}
    (h : decodeStage fresh d s = some y) : pathReady fresh s (pathOfWord d.iw) = true ∧ y = stageLatch fresh s d := by
  unfold decodeStage at h
  split at h
  · next e => cases h; exact ⟨e, rfl⟩
  · cases h

theorem decodeStage_eq_none {fresh : List Record} {d : IfId} {s : State} (h : decodeStage fresh d s = none) :
    pathReady fresh s (pathOfWord d.iw) = false := by
  unfold decodeStage at h
  split at h
  · cases h
  · next e => simpa using e

/-- A ready instruction's destination has no marker set (R349). -/
theorem marker_of_pathReady {fresh : List Record} {s : State} {p : Path} (h : pathReady fresh s p = true) :
    ∀ sl ∈ p.dstSlots, s.marker sl = false := by
  simp only [pathReady, Bool.and_eq_true, List.all_eq_true, Bool.not_eq_true'] at h
  exact h.2

/-- An instruction with no source and no destination is always ready (R359). -/
theorem pathReady_pass (fresh : List Record) (s : State) : pathReady fresh s .pass = true := rfl

theorem fetchStage_eq_ok {s : State} {z : IfId} (h : fetchStage s = .ok z) :
    fetchWord s.cfg.memSize s.mem s.pc = some z.iw ∧ z.pc = s.pc := by
  unfold fetchStage at h
  split at h
  · cases h
  · next w e => cases h; exact ⟨e, rfl⟩

/-- Fetch faults exactly on a `PC` out of range, with that `PC` (R67). -/
theorem fetchStage_eq_error_iff (s : State) (f : Fault) :
    fetchStage s = .error f ↔ f = .outOfRangeFetch s.pc ∧ s.cfg.memSize < s.pc.toNat + 4 := by
  have hn : fetchWord s.cfg.memSize s.mem s.pc = none ↔ s.cfg.memSize < s.pc.toNat + 4 := by
    simp [fetchWord, memRead_eq_none_iff, Width.bytes]
  unfold fetchStage
  split
  · next e => simp [hn.1 e, eq_comm]
  · next w e =>
    have : ¬ s.cfg.memSize < s.pc.toNat + 4 := fun hlt => by rw [hn.2 hlt] at e; cases e
    simp [this]

/-! ## The cycle (R370) -/

/-- The machine after the stages that run in every cycle: Memory, Writeback and Execute phase 1. -/
structure CycleTop (s s2 : State) (w : MemWb) (fresh : List Record) : Prop where
  ex : ∃ s1 lmd, memoryStage s = .ok (s1, lmd) ∧ s2 = (executePhase1 (writebackStage s1)).1 ∧
    w = nextMemWb s.exMem lmd (executePhase1 (writebackStage s1)).2 ∧
    fresh = freshRecords lmd (executePhase1 (writebackStage s1)).2

/-- Everything a step that answers a state can do. -/
theorem step_cases {s t : State} (h : step s = .next t) :
    ((s.halted || s.fatal) = true ∧ t = s) ∨
    ((s.halted || s.fatal) = false ∧ ∃ s2 w fresh, CycleTop s s2 w fresh ∧
      ((issuePath (pathOfWord (executeInput s).iw) (executeInput s) s2 = .noUnit ∧ t = endExecuteStall w s2) ∨
       ∃ s3 x, issuePath (pathOfWord (executeInput s).iw) (executeInput s) s2 = .taken s3 x ∧
        ((decodeStage fresh (decodeInput s) s3 = none ∧ t = endDecodeStall w x s3) ∨
         ∃ y z, decodeStage fresh (decodeInput s) s3 = some y ∧ fetchStage s3 = .ok z ∧
          t = endFetched w x y z s3))) := by
  unfold step cycle at h
  split at h
  · next e => cases h; exact .inl ⟨e, rfl⟩
  · next e =>
    refine .inr ⟨by simpa using e, ?_⟩
    unfold runningCycle at h
    split at h
    · cases h
    · next s1 lmd hm =>
      refine ⟨_, _, _, ⟨⟨s1, lmd, hm, rfl, rfl, rfl⟩⟩, ?_⟩
      unfold issueAndBelow executePhase2 at h
      split at h
      · cases h
      · cases h
      · next e2 => cases h; exact .inl ⟨e2, rfl⟩
      · next s3 x e2 =>
        refine .inr ⟨s3, x, e2, ?_⟩
        unfold decodeAndFetch at h
        split at h
        · next e3 => cases h; exact .inl ⟨e3, rfl⟩
        · next y e3 =>
          split at h
          · cases h
          · next z e4 => cases h; exact .inr ⟨y, z, e3, e4, rfl⟩

/-- Every way a step of a running machine ends in a fault (R403). -/
theorem step_fault_cases {s : State} {f : Fault} (h : step s = .fault f) :
    (s.halted || s.fatal) = false ∧
    (memoryStage s = .error f ∨
     ∃ s2 w fresh s3 x y, CycleTop s s2 w fresh ∧
      issuePath (pathOfWord (executeInput s).iw) (executeInput s) s2 = .taken s3 x ∧
      decodeStage fresh (decodeInput s) s3 = some y ∧ fetchStage s3 = .error f) := by
  unfold step cycle at h
  split at h
  · cases h
  · next e =>
    refine ⟨by simpa using e, ?_⟩
    unfold runningCycle at h
    split at h
    · next g hm => cases h; exact .inl hm
    · next s1 lmd hm =>
      unfold issueAndBelow executePhase2 at h
      split at h
      · cases h
      · next g e2 => exact absurd e2 (issuePath_ne_fault _ _ _ _)
      · cases h
      · next s3 x e2 =>
        unfold decodeAndFetch at h
        split at h
        · cases h
        · next y e3 =>
          split at h
          · next g e4 => cases h; exact .inr ⟨_, _, _, s3, x, y, ⟨⟨s1, lmd, hm, rfl, rfl, rfl⟩⟩, e2, e3, e4⟩
          · cases h

/-- A step is refused exactly where Execute takes a double form that names slot 31 (R341). -/
theorem step_refused_cases {s : State} {r : Refusal} (h : step s = .refused r) :
    (s.halted || s.fatal) = false ∧ r = .doubleAtSlot31 ∧ pathOfWord (executeInput s).iw = .slot31 := by
  unfold step cycle at h
  split at h
  · cases h
  · next e =>
    refine ⟨by simpa using e, ?_⟩
    unfold runningCycle at h
    split at h
    · cases h
    · next s1 lmd hm =>
      unfold issueAndBelow executePhase2 at h
      split at h
      · next why e2 =>
        obtain ⟨h1, h2⟩ := (issuePath_eq_refused_iff _ _ _ _).1 e2
        cases h
        exact ⟨h2, h1⟩
      · cases h
      · cases h
      · unfold decodeAndFetch at h
        split at h
        · cases h
        · split at h <;> cases h

/-- What the stages of every cycle leave: configuration, latches; and what they do to memory, `PC` and the pools. -/
theorem CycleTop.frame {s s2 : State} {w : MemWb} {fresh : List Record} (h : CycleTop s s2 w fresh) :
    s2.cfg = s.cfg ∧ s2.ifId = s.ifId ∧ s2.idEx = s.idEx ∧ s2.exMem = s.exMem ∧ s2.memWb = s.memWb ∧
    s2.fatal = s.fatal ∧ s2.stalled = s.stalled ∧
    s2.pc = (if s.exMem.cond then s.exMem.aluout else s.pc) ∧
    s2.halted = (s.halted || (pathOfWord s.memWb.iw).isTrap) ∧
    (∀ k, s2.pool k = (unloadPool (tickPool (s.pool k))).2) ∧
    w.iw = s.exMem.iw ∧ w.pc = s.exMem.pc := by
  obtain ⟨s1, lmd, hm, rfl, rfl, rfl⟩ := h.ex
  obtain ⟨m, pc, rfl, rfl⟩ := memoryStage_frame hm
  refine ⟨by simp, by simp, by simp, by simp, by simp, by simp, by simp, by simp, by simp, fun k => ?_, rfl, rfl⟩
  rw [executePhase1_pool, writebackStage_pool]
  cases k <;> rfl

end Sys2Proof.Machine
end

