-- ==== Sys2Proof/Laws/Invariants.lean ====
section
/-! SUPPORT. What the parts of a cycle do to the invariants: the pools, the uncommitted writers and their markers. -/

namespace Sys2Proof.Machine

/-! ## Pools (R291, R306) -/

/-- What `poolOk` says. -/
theorem poolOk_iff (cfg : Configuration) (k : UnitClass) (p : List FuncUnit) :
    poolOk cfg k p = true ↔ p.length = unitCount cfg k ∧ (∀ u ∈ p, unitOk cfg k u = true) ∧
      p.Pairwise (fun u v => ∀ r, u.remaining = some r → v.remaining ≠ some r) := by
  simp only [poolOk, Bool.and_eq_true, decide_eq_true_eq, List.all_eq_true, and_assoc]
  refine and_congr_right fun _ => and_congr_right fun _ => ?_
  rw [List.Nodup, List.pairwise_filterMap]
  refine ⟨fun h => h.imp fun h' r e e' => h' r e r e' rfl, fun h => h.imp fun h' r e r' e' he => ?_⟩
  subst he; exact h' r e e'

/-- What `unitOk` says. -/
theorem unitOk_cases {cfg : Configuration} {k : UnitClass} {u : FuncUnit} (h : unitOk cfg k u = true) :
    u = .idle ∨ ∃ a b op rem tag, u = .busy a b op rem tag ∧ 1 ≤ rem ∧ rem ≤ latency cfg k ∧ op.unitClass = k ∧
      op.fits tag = true := by
  cases u with
  | idle => exact .inl rfl
  | busy a b op rem tag =>
    simp only [unitOk, Bool.and_eq_true, decide_eq_true_eq] at h
    exact .inr ⟨a, b, op, rem, tag, rfl, h.1.1.1, h.1.1.2, h.1.2, h.2⟩
  | done v t => simp [unitOk] at h

/-- A sound unit after its tick: Idle, Done in its last cycle, or sound and below the latency of its class. -/
theorem tick_cases {cfg : Configuration} {k : UnitClass} {u : FuncUnit} (h : unitOk cfg k u = true) :
    u.tick = .idle ∨ (∃ v t, u.tick = .done v t ∧ u.remaining = some 1 ∧ t.wf = true) ∨
    ∃ r, u.remaining = some (r + 1) ∧ u.tick.remaining = some r ∧ r < latency cfg k ∧ unitOk cfg k u.tick = true := by
  rcases unitOk_cases h with rfl | ⟨a, b, op, rem, tag, rfl, h1, h2, h3, h4⟩
  · exact .inl rfl
  · match rem, h1 with
    | 1, _ => exact .inr (.inl ⟨_, _, rfl, rfl, UnitOp.wf_of_fits h4⟩)
    | n + 2, _ =>
      refine .inr (.inr ⟨n + 1, rfl, rfl, by omega, ?_⟩)
      simp only [FuncUnit.tick, unitOk, show n + 2 - 1 = n + 1 from rfl, Nat.add_eq_zero_iff,
        one_ne_zero, and_false, if_false, Bool.and_eq_true, decide_eq_true_eq]
      exact ⟨⟨⟨by omega, by omega⟩, h3⟩, h4⟩

/-- After the ticks at most one unit of a sound pool is Done (R306). -/
theorem tickPool_done_unique {cfg : Configuration} {k : UnitClass} {p : List FuncUnit} (h : poolOk cfg k p = true) :
    (tickPool p).Pairwise (fun u v => ∀ a t, u = .done a t → ∀ b t', v ≠ .done b t') := by
  obtain ⟨-, h1, h2⟩ := (poolOk_iff ..).1 h
  rw [tickPool, List.pairwise_map]
  refine (List.pairwise_iff_forall_sublist.2 fun {u v} hs a t hu b t' hv => ?_)
  have hm := hs.subset
  have := List.pairwise_iff_forall_sublist.1 h2 hs
  have done1 : ∀ w ∈ p, ∀ a t, w.tick = .done a t → w.remaining = some 1 := by
    intro w hw a t hd
    rcases tick_cases (h1 w hw) with e | ⟨_, _, _, e, _⟩ | ⟨r, _, e, _, _⟩
    · rw [e] at hd; cases hd
    · exact e
    · rw [hd] at e; cases e
  exact this 1 (done1 u (hm (by simp)) a t hu) (done1 v (hm (by simp)) b t' hv)

/-- What phase 1 of Execute makes of a sound pool: a sound pool with no unit at the full latency, and a record, if
any, that names no pair at slot 31. -/
theorem poolOk_tick_unload {cfg : Configuration} {k : UnitClass} {p : List FuncUnit} (h : poolOk cfg k p = true) :
    poolOk cfg k (unloadPool (tickPool p)).2 = true ∧
    (∀ u ∈ (unloadPool (tickPool p)).2, ∀ r, u.remaining = some r → r < latency cfg k) ∧
    recordOk (unloadPool (tickPool p)).1 = true := by
  obtain ⟨h0, h1, h2⟩ := (poolOk_iff ..).1 h
  have hdone := tickPool_done_unique h
  have htick : ∀ u ∈ tickPool p, u = .idle ∨ (∃ v t, u = .done v t ∧ t.wf = true) ∨
      ∃ r, u.remaining = some r ∧ r < latency cfg k ∧ unitOk cfg k u = true := by
    intro u hu
    obtain ⟨w, hw, rfl⟩ := List.mem_map.1 hu
    rcases tick_cases (h1 w hw) with e | ⟨v, t, e, _, ht⟩ | ⟨r, _, e, hr, ho⟩
    · exact .inl e
    · exact .inr (.inl ⟨v, t, e, ht⟩)
    · exact .inr (.inr ⟨r, e, hr, ho⟩)
  have hpair : (tickPool p).Pairwise (fun u v => ∀ r, u.remaining = some r → v.remaining ≠ some r) := by
    rw [tickPool, List.pairwise_map]
    refine (List.pairwise_iff_forall_sublist.2 fun {u v} hs r hu hv => ?_)
    have hm := hs.subset
    have := List.pairwise_iff_forall_sublist.1 h2 hs
    have back : ∀ w ∈ p, w.tick.remaining = some r → w.remaining = some (r + 1) := by
      intro w hw he
      rcases tick_cases (h1 w hw) with e | ⟨_, _, e, _, _⟩ | ⟨r', e1, e2, _, _⟩
      · rw [e] at he; cases he
      · rw [e] at he; cases he
      · rw [he] at e2; cases e2; exact e1
    exact this (r + 1) (back u (hm (by simp)) hu) (back v (hm (by simp)) hv)
  have sound : ∀ q : List FuncUnit, q.length = unitCount cfg k → (∀ u ∈ q, u = .idle ∨
      ∃ r, u.remaining = some r ∧ r < latency cfg k ∧ unitOk cfg k u = true) →
      q.Pairwise (fun u v => ∀ r, u.remaining = some r → v.remaining ≠ some r) →
      poolOk cfg k q = true ∧ ∀ u ∈ q, ∀ r, u.remaining = some r → r < latency cfg k := by
    intro q hq hu hp
    refine ⟨(poolOk_iff ..).2 ⟨hq, fun u hm => ?_, hp⟩, fun u hm r e => ?_⟩
    · rcases hu u hm with rfl | ⟨_, _, _, ho⟩
      · rfl
      · exact ho
    · rcases hu u hm with rfl | ⟨r', e', hr, _⟩
      · cases e
      · rw [e] at e'; cases e'; exact hr
  cases hrec : (unloadPool (tickPool p)).1 with
  | none =>
    have hnd := (unloadPool_eq_none_iff _).1 hrec
    rw [unloadPool_of_none _ hrec]
    obtain ⟨s1, s2⟩ := sound (tickPool p) (by simpa using h0) (fun u hu => by
      rcases htick u hu with e | ⟨v, t, e, _⟩ | e
      · exact .inl e
      · exact absurd e (hnd u hu v t)
      · exact .inr e) hpair
    exact ⟨s1, s2, rfl⟩
  | some rec =>
    obtain ⟨j, hj, -, e2⟩ := unloadPool_eq_some hrec
    obtain ⟨hjl, hje⟩ := List.getElem?_eq_some_iff.1 hj
    have hother : ∀ i (hi : i < (tickPool p).length), i ≠ j → ∀ v t, (tickPool p)[i] ≠ .done v t := by
      intro i hi hij v t e
      rcases Nat.lt_or_gt_of_ne hij with hlt | hlt
      · exact List.pairwise_iff_getElem.1 hdone i j hi hjl hlt v t e _ _ hje
      · exact List.pairwise_iff_getElem.1 hdone j i hjl hi hlt _ _ hje v t e
    rw [e2]
    obtain ⟨s1, s2⟩ := sound ((tickPool p).set j .idle) (by simpa using h0) (fun u hu => by
      obtain ⟨i, hi, rfl⟩ := List.getElem_of_mem hu
      simp only [List.length_set] at hi
      rw [List.getElem_set]
      split
      · exact .inl rfl
      · next hne =>
        rcases htick _ (List.getElem_mem hi) with e | ⟨v, t, e, _⟩ | e
        · exact .inl e
        · exact absurd e (hother i hi (Ne.symm hne) v t)
        · exact .inr e) (by
      rw [List.pairwise_iff_getElem]
      intro a b ha hb hab r e e'
      simp only [List.length_set] at ha hb
      rw [List.getElem_set] at e e'
      split at e
      · cases e
      · split at e'
        · cases e'
        · exact List.pairwise_iff_getElem.1 hpair a b ha hb hab r e e')
    refine ⟨s1, s2, ?_⟩
    rcases htick _ (List.getElem_mem hjl) with e | ⟨v, t, e, ht⟩ | ⟨r, e, _⟩
    · rw [hje] at e; cases e
    · rw [hje] at e; cases e; exact ht
    · rw [hje] at e; cases e

/-- Dispatch into an Idle unit of such a pool leaves it sound (R354). -/
theorem poolOk_dispatch {cfg : Configuration} {k : UnitClass} {q : List FuncUnit} {j : Nat} {a b : DWord} {op : UnitOp}
    {tag : Tag} (h : poolOk cfg k q = true) (hr : ∀ u ∈ q, ∀ r, u.remaining = some r → r < latency cfg k)
    (hk : op.unitClass = k) (ht : op.fits tag = true) (hl : 1 ≤ latency cfg k) :
    poolOk cfg k (q.set j (.busy a b op (latency cfg k) tag)) = true := by
  obtain ⟨h0, h1, h2⟩ := (poolOk_iff ..).1 h
  refine (poolOk_iff ..).2 ⟨by simpa using h0, fun u hu => ?_, ?_⟩
  · rcases List.mem_or_eq_of_mem_set hu with hm | rfl
    · exact h1 u hm
    · simp [unitOk, hk, ht, hl]
  · rw [List.pairwise_iff_getElem] at h2 ⊢
    intro x y hx hy hxy r e e'
    simp only [List.length_set] at hx hy
    rw [List.getElem_set] at e e'
    split at e
    · cases e
      split at e'
      · omega
      · exact absurd (hr _ (List.getElem_mem hy) _ e') (lt_irrefl _)
    · split at e'
      · cases e'
        exact absurd (hr _ (List.getElem_mem hx) _ e) (lt_irrefl _)
      · exact h2 x y hx hy hxy r e e'

/-! ## Uncommitted writers of a slot (R47) -/

/-- How many of some tags cover a slot. -/
def covers (ts : List Tag) (sl : Slot) : Nat := (ts.flatMap Tag.slots).count sl

@[simp] theorem covers_nil (sl : Slot) : covers [] sl = 0 := rfl

@[simp] theorem covers_append (xs ys : List Tag) (sl : Slot) : covers (xs ++ ys) sl = covers xs sl + covers ys sl := by
  simp [covers]

@[simp] theorem covers_cons (t : Tag) (ts : List Tag) (sl : Slot) :
    covers (t :: ts) sl = t.slots.count sl + covers ts sl := by
  simp [covers]

theorem covers_eq_zero_iff (ts : List Tag) (sl : Slot) : covers ts sl = 0 ↔ ∀ t ∈ ts, sl ∉ t.slots := by
  simp [covers, List.count_eq_zero]

/-- A tag covers a slot once or not at all. -/
theorem count_slots (t : Tag) (sl : Slot) : t.slots.count sl = if sl ∈ t.slots then 1 else 0 := by
  have hnd : t.slots.Nodup := by
    cases t with
    | fd i => simp [Tag.slots]
    | _ => simp [Tag.slots]
  split
  · next h => exact List.count_eq_one_of_mem hnd h
  · next h => exact List.count_eq_zero.2 h

/-- The tags in the units of a pool. -/
def poolTags (p : List FuncUnit) : List Tag := p.filterMap FuncUnit.tag?

@[simp] theorem tag?_tick (u : FuncUnit) : u.tick.tag? = u.tag? := by
  cases u with
  | busy a b op rem tag => simp only [FuncUnit.tick]; split <;> rfl
  | _ => rfl

@[simp] theorem poolTags_tickPool (p : List FuncUnit) : poolTags (tickPool p) = poolTags p := by
  simp only [poolTags, tickPool, List.filterMap_map]
  congr 1
  funext u
  exact tag?_tick u

/-- A result taken from a pool takes its tag along (R298). -/
theorem covers_unloadPool (p : List FuncUnit) (sl : Slot) :
    covers (poolTags p) sl = covers (poolTags (unloadPool p).2) sl + covers ((unloadPool p).1.toList.map Record.tag) sl := by
  induction p with
  | nil => rfl
  | cons u us ih =>
    cases u <;> simp_all [unloadPool, FuncUnit.takeResult, poolTags, FuncUnit.tag?, List.filterMap_cons] <;> omega

/-- Dispatch into an Idle unit adds its tag (R356). -/
theorem covers_set {p : List FuncUnit} {j : Nat} (h : p[j]? = some .idle) (a b : DWord) (op : UnitOp) (l : Nat)
    (tag : Tag) (sl : Slot) :
    covers (poolTags (p.set j (.busy a b op l tag))) sl = covers (poolTags p) sl + tag.slots.count sl := by
  induction p generalizing j with
  | nil => simp at h
  | cons u us ih =>
    cases j with
    | zero => simp at h; subst h; simp [poolTags, FuncUnit.tag?, List.filterMap_cons]; omega
    | succ j =>
      have := ih (j := j) (by simpa using h)
      cases u <;> simp_all [poolTags, FuncUnit.tag?, List.filterMap_cons] <;> omega

/-- The writers of a slot in units. -/
def poolWriters (s : State) (sl : Slot) : Nat :=
  covers (poolTags s.aluPool) sl + covers (poolTags s.faddPool) sl + covers (poolTags s.fmulPool) sl +
  covers (poolTags s.fdivPool) sl

/-- The writers of a slot in `EX_MEM`: the pending read and the link. -/
def exMemWriters (x : ExMem) (sl : Slot) : Nat := covers x.acc.tag?.toList sl + covers (linkTag? x.iw).toList sl

/-- The writers of a slot in `MEM_WB`: the records and the link. -/
def memWbWriters (w : MemWb) (sl : Slot) : Nat :=
  covers (w.records.map Record.tag) sl + covers (linkTag? w.iw).toList sl

/-- The writers of a slot, place by place. -/
theorem writersOf_eq (s : State) (sl : Slot) :
    writersOf s sl = poolWriters s sl + exMemWriters s.exMem sl + memWbWriters s.memWb sl := by
  unfold writersOf inFlightTags poolWriters exMemWriters memWbWriters
  rw [← covers]
  simp only [covers_append, List.filterMap_append, poolTags]
  omega

/-! ## Writeback (R335 to R337) -/

/-- The slots that Writeback commits: those of the records, and the link register under a `JAL`. -/
def committed (w : MemWb) (sl : Slot) : Bool :=
  w.records.any (fun rec => decide (sl ∈ rec.tag.slots)) || ((pathOfWord w.iw).isLink && decide (sl = .r linkReg))

/-- Writeback clears the markers of what it commits and no other. -/
theorem writebackStage_marker (s : State) (sl : Slot) :
    (writebackStage s).marker sl = (s.marker sl && !committed s.memWb sl) := by
  have hc : (commitRecords s).marker sl = (s.marker sl && !(s.memWb.records.any fun rec => decide (sl ∈ rec.tag.slots))) := by
    unfold commitRecords
    have any_toList : ∀ (o : Option Record) (q : Record → Bool), o.toList.any q = o.any q := by
      intro o q; cases o <;> simp
    simp only [commitOpt_marker, MemWb.records, List.any_append, any_toList]
    cases s.marker sl <;> simp [Bool.and_assoc]
  have hl : (linkWriteback s.memWb (commitRecords s)).marker sl = (s.marker sl && !committed s.memWb sl) := by
    unfold linkWriteback committed
    by_cases h : (pathOfWord s.memWb.iw).isLink = true
    · rw [if_pos h, marker_setMarker,
        show (commitRecords s).writeReg linkReg (s.memWb.pc + 4) =
          (commitRecords s).writeTag (.r linkReg) (wide (s.memWb.pc + 4)) by simp [State.writeTag],
        marker_writeTag, hc, h]
      by_cases hs : sl = .r linkReg <;> simp [hs]
    · rw [if_neg h, hc]; simp [h]
  unfold writebackStage haltWriteback
  split
  · rw [← hl]; cases sl <;> rfl
  · exact hl

/-- A slot is committed exactly if a tag of `MEM_WB` covers it. -/
theorem committed_eq_false_iff (w : MemWb) (sl : Slot) :
    committed w sl = false ↔ memWbWriters w sl = 0 := by
  have h1 : (w.records.any fun rec => decide (sl ∈ rec.tag.slots)) = false ↔
      covers (w.records.map Record.tag) sl = 0 := by
    simp [covers_eq_zero_iff]
  have h2 : ((pathOfWord w.iw).isLink && decide (sl = .r linkReg)) = false ↔
      covers (linkTag? w.iw).toList sl = 0 := by
    unfold linkTag?
    by_cases h : (pathOfWord w.iw).isLink = true <;> simp [h, Tag.slots, List.count_eq_zero]
  rw [committed, Bool.or_eq_false_iff, h1, h2, memWbWriters]
  omega

/-! ## What Execute passes on (R353) -/

/-- A bubble writes nothing. -/
@[simp] theorem exMemWriters_nop (sl : Slot) : exMemWriters nopExMem sl = 0 := rfl

/-- Markers are no part of the pools. -/
theorem poolWriters_setMarkers (s : State) (l : List Slot) (b : Bool) (sl : Slot) :
    poolWriters (s.setMarkers l b) sl = poolWriters s sl := by
  simp [poolWriters]

theorem poolWriters_setPool (s : State) (k : UnitClass) (q : List FuncUnit) (sl : Slot) :
    poolWriters (s.setPool k q) sl + covers (poolTags (s.pool k)) sl = poolWriters s sl + covers (poolTags q) sl := by
  cases k <;> simp only [poolWriters, State.setPool, State.pool] <;> omega

/-- A taken instruction adds one writer to each slot of its destination, in a unit or in `EX_MEM` (R356). -/
theorem writers_taken {e : IdEx} {s s' : State} {x : ExMem} (h : issuePath (pathOfWord e.iw) e s = .taken s' x)
    (sl : Slot) :
    poolWriters s' sl + exMemWriters x sl = poolWriters s sl + (pathOfWord e.iw).dstSlots.count sl := by
  have hx := (issuePath_taken h).2.1
  have hl : covers (linkTag? x.iw).toList sl = if (pathOfWord e.iw).isLink then (Tag.r linkReg).slots.count sl else 0 := by
    rw [hx, linkTag?]
    split <;> simp
  rw [exMemWriters, hl]
  clear hl hx
  generalize pathOfWord e.iw = p at h ⊢
  have other : (∀ op dst a b, p ≠ .unit op dst a b) → poolWriters s' sl = poolWriters s sl := fun hp => by
    rw [issuePath_taken_other h hp, poolWriters_setMarkers]
  cases p
  case unit op dst a b =>
    obtain ⟨k, hk, rfl, rfl⟩ := issuePath_taken_unit h
    have h1 := poolWriters_setPool s op.unitClass
      ((s.pool op.unitClass).set k (.busy e.a e.b op (latency s.cfg op.unitClass) dst)) sl
    rw [covers_set hk] at h1
    rw [poolWriters_setMarkers]
    simp [Path.isLink, plainExMem, Access.tag?, Path.dstSlots, Path.dst]
    omega
  all_goals rw [other (fun _ _ _ _ => Path.noConfusion)]
  case jump offset link =>
    simp only [issuePath] at h
    cases h; cases link <;> simp [Path.isLink, plainExMem, Access.tag?, Path.dstSlots, Path.dst]
  case slot31 => simp [issuePath] at h
  all_goals
    simp only [issuePath] at h
    cases h
    simp [Path.isLink, plainExMem, Access.tag?, Path.dstSlots, Path.dst]

/-- What Execute leaves in `EX_MEM` is the access and the condition of its word. -/
theorem exMemOk_of_taken {e : IdEx} {s s' : State} {x : ExMem}
    (h : issuePath (pathOfWord e.iw) e s = .taken s' x) : exMemOk x = true := by
  have hx := (issuePath_taken h).2.1
  unfold exMemOk
  rw [hx]
  generalize pathOfWord e.iw = p at h
  cases p <;> simp only [issuePath] at h
  case unit op dst a b =>
    rw [issueUnit_eq] at h
    split at h
    · cases h
    · cases h; simp [plainExMem]
  case slot31 => cases h
  all_goals cases h; simp [plainExMem]

/-- A bubble in `EX_MEM` is as it should be. -/
theorem exMemOk_nop : exMemOk nopExMem = true := by simp [exMemOk, nopExMem]

/-- The tag of a pending read that belongs to its word names no pair at slot 31. -/
theorem wf_of_exMemOk {x : ExMem} {tag : Tag} {addr : Word} {n : Width} {sg : Bool} (h : exMemOk x = true)
    (ha : x.acc = .read tag addr n sg) : tag.wf = true := by
  have hp := pathOfWord_ok x.iw
  unfold exMemOk at h
  rw [ha] at h
  generalize pathOfWord x.iw = p at h hp
  cases p <;> first | cases h | skip
  case load dst base disp n' sg' =>
    simp only [Bool.and_eq_true, decide_eq_true_eq] at h
    rw [h.1.1.1]; exact hp

/-! ## The stages of every cycle -/

/-- A destination covers each of its slots once. -/
theorem count_dstSlots (p : Path) (sl : Slot) : p.dstSlots.count sl = if sl ∈ p.dstSlots then 1 else 0 := by
  unfold Path.dstSlots
  cases p.dst with
  | none => simp
  | some t => simpa using count_slots t sl

/-- The markers after Memory, Writeback and Execute phase 1. -/
theorem CycleTop.marker {s s2 : State} {w : MemWb} {fresh : List Record} (h : CycleTop s s2 w fresh) (sl : Slot) :
    s2.marker sl = (s.marker sl && !committed s.memWb sl) := by
  obtain ⟨s1, lmd, hm, rfl, rfl, rfl⟩ := h.ex
  obtain ⟨m, pc, rfl, -⟩ := memoryStage_frame hm
  rw [marker_executePhase1, writebackStage_marker]
  cases sl <;> rfl

/-- The record of a load carries the tag of its descriptor (R325). -/
theorem memoryStage_lmd_tag {s s1 : State} {lmd : Option Record} (h : memoryStage s = .ok (s1, lmd)) :
    lmd.toList.map Record.tag = s.exMem.acc.tag?.toList := by
  rcases memoryStage_eq_ok h with ⟨e, -, rfl⟩ | ⟨t, a, n, sg, v, e, -, -, rfl⟩ | ⟨a, n, p, m, e, -, -, rfl⟩ <;>
    simp [e, Access.tag?]

/-- In these stages writers move on to the new `MEM_WB`, and those of the old one are committed. -/
theorem CycleTop.writers {s s2 : State} {w : MemWb} {fresh : List Record} (h : CycleTop s s2 w fresh) (sl : Slot) :
    writersOf s sl = poolWriters s2 sl + memWbWriters w sl + memWbWriters s.memWb sl := by
  have hp := h.frame.2.2.2.2.2.2.2.2.2.1
  have h1 := hp .alu; have h2 := hp .fadd; have h3 := hp .fmul; have h4 := hp .fdiv
  simp only [State.pool] at h1 h2 h3 h4
  obtain ⟨s1, lmd, hm, -, e2, -⟩ := h.ex
  have hl := memoryStage_lmd_tag hm
  obtain ⟨m, pc, rfl, -⟩ := memoryStage_frame hm
  have u := fun p => covers_unloadPool (tickPool p) sl
  simp only [poolTags_tickPool] at u
  have hw : w.records.map Record.tag =
      ((unloadPool (tickPool s.aluPool)).1.toList ++ (unloadPool (tickPool s.faddPool)).1.toList ++
        (unloadPool (tickPool s.fmulPool)).1.toList ++ (unloadPool (tickPool s.fdivPool)).1.toList).map Record.tag ++
      s.exMem.acc.tag?.toList := by
    rw [← hl, e2]
    simp [nextMemWb, MemWb.records, executePhase1]
  have hiw : w.iw = s.exMem.iw := by rw [e2]; rfl
  rw [writersOf_eq, poolWriters, poolWriters, exMemWriters, memWbWriters, memWbWriters, h1, h2, h3, h4, u s.aluPool, u s.faddPool,
    u s.fmulPool, u s.fdivPool, hw, hiw]
  simp only [List.map_append, covers_append]
  omega

/-- In a machine with exact markers, after these stages the markers are exact for what is left in flight. -/
theorem CycleTop.exact {s s2 : State} {w : MemWb} {fresh : List Record} (h : CycleTop s s2 w fresh)
    (hx : MarkersExact s) (sl : Slot) :
    poolWriters s2 sl + memWbWriters w sl = if s2.marker sl then 1 else 0 := by
  have h1 := h.writers sl
  have h3 := committed_eq_false_iff s.memWb sl
  rw [hx sl] at h1
  rw [h.marker]
  cases hc : committed s.memWb sl
  · have h4 := h3.1 hc
    cases hm : s.marker sl <;> simp only [hm] at h1 ⊢ <;> simp at h1 ⊢ <;> omega
  · have h4 : memWbWriters s.memWb sl ≠ 0 := fun hz => by rw [h3.2 hz] at hc; cases hc
    cases hm : s.marker sl <;> simp only [hm] at h1 ⊢ <;> simp at h1 ⊢ <;> omega

end Sys2Proof.Machine
end

