-- ==== Sys2Proof/Laws/PerInstr.lean ====
section
/-! SUPPORT. Statements for all instructions, one lemma each: the encoder writes the fixed bits of the instruction's row
of spec/opcode_table.json. -/

namespace Sys2Proof.Laws.EncodedRow

open Sys2Proof

/-- The mask and the match of an instruction's row of spec/opcode_table.json. -/
def row : Instr → Word × Word
  | .nop => (0xFC00003F, 0x00000000)
  | .add _ _ _ => (0xFC00003F, 0x00000020)
  | .addu _ _ _ => (0xFC00003F, 0x00000021)
  | .sub _ _ _ => (0xFC00003F, 0x00000022)
  | .subu _ _ _ => (0xFC00003F, 0x00000023)
  | .and _ _ _ => (0xFC00003F, 0x00000024)
  | .or _ _ _ => (0xFC00003F, 0x00000025)
  | .xor _ _ _ => (0xFC00003F, 0x00000026)
  | .sll _ _ _ => (0xFC00003F, 0x00000004)
  | .srl _ _ _ => (0xFC00003F, 0x00000006)
  | .sra _ _ _ => (0xFC00003F, 0x00000007)
  | .seq _ _ _ => (0xFC00003F, 0x00000028)
  | .sne _ _ _ => (0xFC00003F, 0x00000029)
  | .slt _ _ _ => (0xFC00003F, 0x0000002A)
  | .sgt _ _ _ => (0xFC00003F, 0x0000002B)
  | .sle _ _ _ => (0xFC00003F, 0x0000002C)
  | .sge _ _ _ => (0xFC00003F, 0x0000002D)
  | .addi _ _ _ => (0xFC000000, 0x20000000)
  | .addui _ _ _ => (0xFC000000, 0x24000000)
  | .subi _ _ _ => (0xFC000000, 0x28000000)
  | .subui _ _ _ => (0xFC000000, 0x2C000000)
  | .andi _ _ _ => (0xFC000000, 0x30000000)
  | .ori _ _ _ => (0xFC000000, 0x34000000)
  | .xori _ _ _ => (0xFC000000, 0x38000000)
  | .lhi _ _ => (0xFC000000, 0x3C000000)
  | .slli _ _ _ => (0xFC000000, 0x50000000)
  | .srli _ _ _ => (0xFC000000, 0x58000000)
  | .srai _ _ _ => (0xFC000000, 0x5C000000)
  | .seqi _ _ _ => (0xFC000000, 0x60000000)
  | .snei _ _ _ => (0xFC000000, 0x64000000)
  | .slti _ _ _ => (0xFC000000, 0x68000000)
  | .sgti _ _ _ => (0xFC000000, 0x6C000000)
  | .slei _ _ _ => (0xFC000000, 0x70000000)
  | .sgei _ _ _ => (0xFC000000, 0x74000000)
  | .addf _ _ _ => (0xFC00003F, 0x04000000)
  | .subf _ _ _ => (0xFC00003F, 0x04000001)
  | .multf _ _ _ => (0xFC00003F, 0x04000002)
  | .divf _ _ _ => (0xFC00003F, 0x04000003)
  | .addd _ _ _ => (0xFC00003F, 0x04000004)
  | .subd _ _ _ => (0xFC00003F, 0x04000005)
  | .multd _ _ _ => (0xFC00003F, 0x04000006)
  | .divd _ _ _ => (0xFC00003F, 0x04000007)
  | .mult _ _ _ => (0xFC00003F, 0x0400000E)
  | .div _ _ _ => (0xFC00003F, 0x0400000F)
  | .eqf _ _ => (0xFC00003F, 0x04000010)
  | .nef _ _ => (0xFC00003F, 0x04000011)
  | .ltf _ _ => (0xFC00003F, 0x04000012)
  | .gtf _ _ => (0xFC00003F, 0x04000013)
  | .lef _ _ => (0xFC00003F, 0x04000014)
  | .gef _ _ => (0xFC00003F, 0x04000015)
  | .eqd _ _ => (0xFC00003F, 0x04000018)
  | .ned _ _ => (0xFC00003F, 0x04000019)
  | .ltd _ _ => (0xFC00003F, 0x0400001A)
  | .gtd _ _ => (0xFC00003F, 0x0400001B)
  | .led _ _ => (0xFC00003F, 0x0400001C)
  | .ged _ _ => (0xFC00003F, 0x0400001D)
  | .lb _ _ _ => (0xFC000000, 0x80000000)
  | .lbu _ _ _ => (0xFC000000, 0x90000000)
  | .lh _ _ _ => (0xFC000000, 0x84000000)
  | .lhu _ _ _ => (0xFC000000, 0x94000000)
  | .lw _ _ _ => (0xFC000000, 0x8C000000)
  | .lf _ _ _ => (0xFC000000, 0x98000000)
  | .ld _ _ _ => (0xFC000000, 0x9C000000)
  | .sb _ _ _ => (0xFC000000, 0xA0000000)
  | .sh _ _ _ => (0xFC000000, 0xA4000000)
  | .sw _ _ _ => (0xFC000000, 0xAC000000)
  | .sf _ _ _ => (0xFC000000, 0xB8000000)
  | .sd _ _ _ => (0xFC000000, 0xBC000000)
  | .beqz _ _ => (0xFC000000, 0x10000000)
  | .bnez _ _ => (0xFC000000, 0x14000000)
  | .bfpt _ => (0xFC000000, 0x18000000)
  | .bfpf _ => (0xFC000000, 0x1C000000)
  | .j _ => (0xFC000000, 0x08000000)
  | .jal _ => (0xFC000000, 0x0C000000)
  | .trap => (0xFC000000, 0x44000000)
  | .rfe => (0xFC000000, 0x40000000)
  | .jr => (0xFC000000, 0x48000000)
  | .jalr => (0xFC000000, 0x4C000000)
  | .movi2s => (0xFC00003F, 0x00000030)
  | .movs2i => (0xFC00003F, 0x00000031)
  | .sequ => (0xFC00003F, 0x00000010)
  | .sneu => (0xFC00003F, 0x00000011)
  | .sltu => (0xFC00003F, 0x00000012)
  | .sgtu => (0xFC00003F, 0x00000013)
  | .sleu => (0xFC00003F, 0x00000014)
  | .sgeu => (0xFC00003F, 0x00000015)
  | .sequi => (0xFC000000, 0xC0000000)
  | .sneui => (0xFC000000, 0xC4000000)
  | .sltui => (0xFC000000, 0xC8000000)
  | .sgtui => (0xFC000000, 0xCC000000)
  | .sleui => (0xFC000000, 0xD0000000)
  | .sgeui => (0xFC000000, 0xD4000000)
  | .movf => (0xFC00003F, 0x00000032)
  | .movd => (0xFC00003F, 0x00000033)
  | .movfp2i => (0xFC00003F, 0x00000034)
  | .movi2fp => (0xFC00003F, 0x00000035)
  | .cvtf2d => (0xFC00003F, 0x04000008)
  | .cvtf2i => (0xFC00003F, 0x04000009)
  | .cvtd2f => (0xFC00003F, 0x0400000A)
  | .cvtd2i => (0xFC00003F, 0x0400000B)
  | .cvti2f => (0xFC00003F, 0x0400000C)
  | .cvti2d => (0xFC00003F, 0x0400000D)
  | .multu => (0xFC00003F, 0x04000016)
  | .divu => (0xFC00003F, 0x04000017)

/-- The encoded word has its row's fixed bits. -/
def Statement (i : Instr) : Prop := encode i &&& (row i).1 = (row i).2

theorem nop : Statement (.nop) := wordR_and_mask ..
theorem add (rd : Reg) (rs1 : Reg) (rs2 : Reg) : Statement (.add rd rs1 rs2) := wordR_and_mask ..
theorem addu (rd : Reg) (rs1 : Reg) (rs2 : Reg) : Statement (.addu rd rs1 rs2) := wordR_and_mask ..
theorem sub (rd : Reg) (rs1 : Reg) (rs2 : Reg) : Statement (.sub rd rs1 rs2) := wordR_and_mask ..
theorem subu (rd : Reg) (rs1 : Reg) (rs2 : Reg) : Statement (.subu rd rs1 rs2) := wordR_and_mask ..
theorem and (rd : Reg) (rs1 : Reg) (rs2 : Reg) : Statement (.and rd rs1 rs2) := wordR_and_mask ..
theorem or (rd : Reg) (rs1 : Reg) (rs2 : Reg) : Statement (.or rd rs1 rs2) := wordR_and_mask ..
theorem xor (rd : Reg) (rs1 : Reg) (rs2 : Reg) : Statement (.xor rd rs1 rs2) := wordR_and_mask ..
theorem sll (rd : Reg) (rs1 : Reg) (rs2 : Reg) : Statement (.sll rd rs1 rs2) := wordR_and_mask ..
theorem srl (rd : Reg) (rs1 : Reg) (rs2 : Reg) : Statement (.srl rd rs1 rs2) := wordR_and_mask ..
theorem sra (rd : Reg) (rs1 : Reg) (rs2 : Reg) : Statement (.sra rd rs1 rs2) := wordR_and_mask ..
theorem seq (rd : Reg) (rs1 : Reg) (rs2 : Reg) : Statement (.seq rd rs1 rs2) := wordR_and_mask ..
theorem sne (rd : Reg) (rs1 : Reg) (rs2 : Reg) : Statement (.sne rd rs1 rs2) := wordR_and_mask ..
theorem slt (rd : Reg) (rs1 : Reg) (rs2 : Reg) : Statement (.slt rd rs1 rs2) := wordR_and_mask ..
theorem sgt (rd : Reg) (rs1 : Reg) (rs2 : Reg) : Statement (.sgt rd rs1 rs2) := wordR_and_mask ..
theorem sle (rd : Reg) (rs1 : Reg) (rs2 : Reg) : Statement (.sle rd rs1 rs2) := wordR_and_mask ..
theorem sge (rd : Reg) (rs1 : Reg) (rs2 : Reg) : Statement (.sge rd rs1 rs2) := wordR_and_mask ..
theorem addi (rd : Reg) (rs1 : Reg) (imm : BitVec 16) : Statement (.addi rd rs1 imm) := wordI_and_mask ..
theorem addui (rd : Reg) (rs1 : Reg) (imm : BitVec 16) : Statement (.addui rd rs1 imm) := wordI_and_mask ..
theorem subi (rd : Reg) (rs1 : Reg) (imm : BitVec 16) : Statement (.subi rd rs1 imm) := wordI_and_mask ..
theorem subui (rd : Reg) (rs1 : Reg) (imm : BitVec 16) : Statement (.subui rd rs1 imm) := wordI_and_mask ..
theorem andi (rd : Reg) (rs1 : Reg) (imm : BitVec 16) : Statement (.andi rd rs1 imm) := wordI_and_mask ..
theorem ori (rd : Reg) (rs1 : Reg) (imm : BitVec 16) : Statement (.ori rd rs1 imm) := wordI_and_mask ..
theorem xori (rd : Reg) (rs1 : Reg) (imm : BitVec 16) : Statement (.xori rd rs1 imm) := wordI_and_mask ..
theorem lhi (rd : Reg) (imm : BitVec 16) : Statement (.lhi rd imm) := wordI_and_mask ..
theorem slli (rd : Reg) (rs1 : Reg) (imm : BitVec 16) : Statement (.slli rd rs1 imm) := wordI_and_mask ..
theorem srli (rd : Reg) (rs1 : Reg) (imm : BitVec 16) : Statement (.srli rd rs1 imm) := wordI_and_mask ..
theorem srai (rd : Reg) (rs1 : Reg) (imm : BitVec 16) : Statement (.srai rd rs1 imm) := wordI_and_mask ..
theorem seqi (rd : Reg) (rs1 : Reg) (imm : BitVec 16) : Statement (.seqi rd rs1 imm) := wordI_and_mask ..
theorem snei (rd : Reg) (rs1 : Reg) (imm : BitVec 16) : Statement (.snei rd rs1 imm) := wordI_and_mask ..
theorem slti (rd : Reg) (rs1 : Reg) (imm : BitVec 16) : Statement (.slti rd rs1 imm) := wordI_and_mask ..
theorem sgti (rd : Reg) (rs1 : Reg) (imm : BitVec 16) : Statement (.sgti rd rs1 imm) := wordI_and_mask ..
theorem slei (rd : Reg) (rs1 : Reg) (imm : BitVec 16) : Statement (.slei rd rs1 imm) := wordI_and_mask ..
theorem sgei (rd : Reg) (rs1 : Reg) (imm : BitVec 16) : Statement (.sgei rd rs1 imm) := wordI_and_mask ..
theorem addf (rd : Reg) (rs1 : Reg) (rs2 : Reg) : Statement (.addf rd rs1 rs2) := wordR_and_mask ..
theorem subf (rd : Reg) (rs1 : Reg) (rs2 : Reg) : Statement (.subf rd rs1 rs2) := wordR_and_mask ..
theorem multf (rd : Reg) (rs1 : Reg) (rs2 : Reg) : Statement (.multf rd rs1 rs2) := wordR_and_mask ..
theorem divf (rd : Reg) (rs1 : Reg) (rs2 : Reg) : Statement (.divf rd rs1 rs2) := wordR_and_mask ..
theorem addd (rd : Reg) (rs1 : Reg) (rs2 : Reg) : Statement (.addd rd rs1 rs2) := wordR_and_mask ..
theorem subd (rd : Reg) (rs1 : Reg) (rs2 : Reg) : Statement (.subd rd rs1 rs2) := wordR_and_mask ..
theorem multd (rd : Reg) (rs1 : Reg) (rs2 : Reg) : Statement (.multd rd rs1 rs2) := wordR_and_mask ..
theorem divd (rd : Reg) (rs1 : Reg) (rs2 : Reg) : Statement (.divd rd rs1 rs2) := wordR_and_mask ..
theorem mult (rd : Reg) (rs1 : Reg) (rs2 : Reg) : Statement (.mult rd rs1 rs2) := wordR_and_mask ..
theorem div (rd : Reg) (rs1 : Reg) (rs2 : Reg) : Statement (.div rd rs1 rs2) := wordR_and_mask ..
theorem eqf (rs1 : Reg) (rs2 : Reg) : Statement (.eqf rs1 rs2) := wordR_and_mask ..
theorem nef (rs1 : Reg) (rs2 : Reg) : Statement (.nef rs1 rs2) := wordR_and_mask ..
theorem ltf (rs1 : Reg) (rs2 : Reg) : Statement (.ltf rs1 rs2) := wordR_and_mask ..
theorem gtf (rs1 : Reg) (rs2 : Reg) : Statement (.gtf rs1 rs2) := wordR_and_mask ..
theorem lef (rs1 : Reg) (rs2 : Reg) : Statement (.lef rs1 rs2) := wordR_and_mask ..
theorem gef (rs1 : Reg) (rs2 : Reg) : Statement (.gef rs1 rs2) := wordR_and_mask ..
theorem eqd (rs1 : Reg) (rs2 : Reg) : Statement (.eqd rs1 rs2) := wordR_and_mask ..
theorem ned (rs1 : Reg) (rs2 : Reg) : Statement (.ned rs1 rs2) := wordR_and_mask ..
theorem ltd (rs1 : Reg) (rs2 : Reg) : Statement (.ltd rs1 rs2) := wordR_and_mask ..
theorem gtd (rs1 : Reg) (rs2 : Reg) : Statement (.gtd rs1 rs2) := wordR_and_mask ..
theorem led (rs1 : Reg) (rs2 : Reg) : Statement (.led rs1 rs2) := wordR_and_mask ..
theorem ged (rs1 : Reg) (rs2 : Reg) : Statement (.ged rs1 rs2) := wordR_and_mask ..
theorem lb (rd : Reg) (rs1 : Reg) (imm : BitVec 16) : Statement (.lb rd rs1 imm) := wordI_and_mask ..
theorem lbu (rd : Reg) (rs1 : Reg) (imm : BitVec 16) : Statement (.lbu rd rs1 imm) := wordI_and_mask ..
theorem lh (rd : Reg) (rs1 : Reg) (imm : BitVec 16) : Statement (.lh rd rs1 imm) := wordI_and_mask ..
theorem lhu (rd : Reg) (rs1 : Reg) (imm : BitVec 16) : Statement (.lhu rd rs1 imm) := wordI_and_mask ..
theorem lw (rd : Reg) (rs1 : Reg) (imm : BitVec 16) : Statement (.lw rd rs1 imm) := wordI_and_mask ..
theorem lf (rd : Reg) (rs1 : Reg) (imm : BitVec 16) : Statement (.lf rd rs1 imm) := wordI_and_mask ..
theorem ld (rd : Reg) (rs1 : Reg) (imm : BitVec 16) : Statement (.ld rd rs1 imm) := wordI_and_mask ..
theorem sb (rd : Reg) (rs1 : Reg) (imm : BitVec 16) : Statement (.sb rd rs1 imm) := wordI_and_mask ..
theorem sh (rd : Reg) (rs1 : Reg) (imm : BitVec 16) : Statement (.sh rd rs1 imm) := wordI_and_mask ..
theorem sw (rd : Reg) (rs1 : Reg) (imm : BitVec 16) : Statement (.sw rd rs1 imm) := wordI_and_mask ..
theorem sf (rd : Reg) (rs1 : Reg) (imm : BitVec 16) : Statement (.sf rd rs1 imm) := wordI_and_mask ..
theorem sd (rd : Reg) (rs1 : Reg) (imm : BitVec 16) : Statement (.sd rd rs1 imm) := wordI_and_mask ..
theorem beqz (rs1 : Reg) (imm : BitVec 16) : Statement (.beqz rs1 imm) := wordI_and_mask ..
theorem bnez (rs1 : Reg) (imm : BitVec 16) : Statement (.bnez rs1 imm) := wordI_and_mask ..
theorem bfpt (imm : BitVec 16) : Statement (.bfpt imm) := wordI_and_mask ..
theorem bfpf (imm : BitVec 16) : Statement (.bfpf imm) := wordI_and_mask ..
theorem j (offset : BitVec 26) : Statement (.j offset) := wordJ_and_mask ..
theorem jal (offset : BitVec 26) : Statement (.jal offset) := wordJ_and_mask ..
theorem trap : Statement (.trap) := wordJ_and_mask ..
theorem rfe : Statement (.rfe) := wordJ_and_mask ..
theorem jr : Statement (.jr) := wordI_and_mask ..
theorem jalr : Statement (.jalr) := wordI_and_mask ..
theorem movi2s : Statement (.movi2s) := wordR_and_mask ..
theorem movs2i : Statement (.movs2i) := wordR_and_mask ..
theorem sequ : Statement (.sequ) := wordR_and_mask ..
theorem sneu : Statement (.sneu) := wordR_and_mask ..
theorem sltu : Statement (.sltu) := wordR_and_mask ..
theorem sgtu : Statement (.sgtu) := wordR_and_mask ..
theorem sleu : Statement (.sleu) := wordR_and_mask ..
theorem sgeu : Statement (.sgeu) := wordR_and_mask ..
theorem sequi : Statement (.sequi) := wordI_and_mask ..
theorem sneui : Statement (.sneui) := wordI_and_mask ..
theorem sltui : Statement (.sltui) := wordI_and_mask ..
theorem sgtui : Statement (.sgtui) := wordI_and_mask ..
theorem sleui : Statement (.sleui) := wordI_and_mask ..
theorem sgeui : Statement (.sgeui) := wordI_and_mask ..
theorem movf : Statement (.movf) := wordR_and_mask ..
theorem movd : Statement (.movd) := wordR_and_mask ..
theorem movfp2i : Statement (.movfp2i) := wordR_and_mask ..
theorem movi2fp : Statement (.movi2fp) := wordR_and_mask ..
theorem cvtf2d : Statement (.cvtf2d) := wordR_and_mask ..
theorem cvtf2i : Statement (.cvtf2i) := wordR_and_mask ..
theorem cvtd2f : Statement (.cvtd2f) := wordR_and_mask ..
theorem cvtd2i : Statement (.cvtd2i) := wordR_and_mask ..
theorem cvti2f : Statement (.cvti2f) := wordR_and_mask ..
theorem cvti2d : Statement (.cvti2d) := wordR_and_mask ..
theorem multu : Statement (.multu) := wordR_and_mask ..
theorem divu : Statement (.divu) := wordR_and_mask ..

end Sys2Proof.Laws.EncodedRow
end

