-- ==== Sys2Proof/Tests/Slice0.lean ====
section
/-! SUPPORT. The model's own tests: what `wellFormed` refuses, the decoding of every instruction from a word written out
in the spec or by hand from its tables, single instructions and single cycles on small states, and for every obligation
with hypotheses a state and operands that meet them. -/

namespace Sys2Proof.Tests

open Sys2Proof Sys2Proof.Machine

/-! ## Ill-formed instructions (R28) -/

theorem test_illformed_addd : (Instr.addd 31 0 0).wellFormed = false ∧ (Instr.addd 0 31 0).wellFormed = false ∧
    (Instr.addd 0 0 31).wellFormed = false ∧ (Instr.addd 30 30 30).wellFormed = true := by decide
theorem test_illformed_subd : (Instr.subd 31 0 0).wellFormed = false ∧ (Instr.subd 0 31 0).wellFormed = false ∧
    (Instr.subd 0 0 31).wellFormed = false ∧ (Instr.subd 30 30 30).wellFormed = true := by decide
theorem test_illformed_multd : (Instr.multd 31 0 0).wellFormed = false ∧ (Instr.multd 0 31 0).wellFormed = false ∧
    (Instr.multd 0 0 31).wellFormed = false ∧ (Instr.multd 30 30 30).wellFormed = true := by decide
theorem test_illformed_divd : (Instr.divd 31 0 0).wellFormed = false ∧ (Instr.divd 0 31 0).wellFormed = false ∧
    (Instr.divd 0 0 31).wellFormed = false ∧ (Instr.divd 30 30 30).wellFormed = true := by decide
theorem test_illformed_eqd : (Instr.eqd 31 0).wellFormed = false ∧ (Instr.eqd 0 31).wellFormed = false ∧
    (Instr.eqd 30 29).wellFormed = true := by decide
theorem test_illformed_ned : (Instr.ned 31 0).wellFormed = false ∧ (Instr.ned 0 31).wellFormed = false ∧
    (Instr.ned 30 29).wellFormed = true := by decide
theorem test_illformed_ltd : (Instr.ltd 31 0).wellFormed = false ∧ (Instr.ltd 0 31).wellFormed = false ∧
    (Instr.ltd 30 29).wellFormed = true := by decide
theorem test_illformed_gtd : (Instr.gtd 31 0).wellFormed = false ∧ (Instr.gtd 0 31).wellFormed = false ∧
    (Instr.gtd 30 29).wellFormed = true := by decide
theorem test_illformed_led : (Instr.led 31 0).wellFormed = false ∧ (Instr.led 0 31).wellFormed = false ∧
    (Instr.led 30 29).wellFormed = true := by decide
theorem test_illformed_ged : (Instr.ged 31 0).wellFormed = false ∧ (Instr.ged 0 31).wellFormed = false ∧
    (Instr.ged 30 29).wellFormed = true := by decide
theorem test_illformed_ld : (Instr.ld 31 0 0).wellFormed = false ∧ (Instr.ld 30 31 0).wellFormed = true := by decide
theorem test_illformed_sd : (Instr.sd 31 0 0).wellFormed = false ∧ (Instr.sd 30 31 0).wellFormed = true := by decide

/-! ## Decoding: for each instruction a word of its rule, or, where the rule writes none, its row of the table with
other bits set in the fields it ignores -/

theorem test_decode_nop :
    decodeTableWord 32 0x002219C0 = some .nop := by decide
theorem test_decode_register_alu_a :
    decodeTableWord 32 0x00221820 = some (.add 3 1 2) ∧
    decodeTableWord 32 0x00221821 = some (.addu 3 1 2) ∧
    decodeTableWord 32 0x00221822 = some (.sub 3 1 2) ∧
    decodeTableWord 32 0x00221823 = some (.subu 3 1 2) ∧
    decodeTableWord 32 0x00221824 = some (.and 3 1 2) ∧
    decodeTableWord 32 0x00221825 = some (.or 3 1 2) ∧
    decodeTableWord 32 0x00221826 = some (.xor 3 1 2) ∧
    decodeTableWord 32 0x00221804 = some (.sll 3 1 2) ∧
    decodeTableWord 32 0x00221806 = some (.srl 3 1 2) ∧
    decodeTableWord 32 0x00221807 = some (.sra 3 1 2) ∧
    decodeTableWord 32 0x00221828 = some (.seq 3 1 2) := by decide
theorem test_decode_register_alu_b :
    decodeTableWord 32 0x00221829 = some (.sne 3 1 2) ∧
    decodeTableWord 32 0x0022182A = some (.slt 3 1 2) ∧
    decodeTableWord 32 0x0022182B = some (.sgt 3 1 2) ∧
    decodeTableWord 32 0x0022182C = some (.sle 3 1 2) ∧
    decodeTableWord 32 0x0022182D = some (.sge 3 1 2) := by decide
theorem test_decode_immediate_alu_a :
    decodeTableWord 32 0x20010005 = some (.addi 1 0 0x5) ∧
    decodeTableWord 32 0x2422FFFF = some (.addui 2 1 0xFFFF) ∧
    decodeTableWord 32 0x28220005 = some (.subi 2 1 0x5) ∧
    decodeTableWord 32 0x2C22FFFF = some (.subui 2 1 0xFFFF) ∧
    decodeTableWord 32 0x3022FFFF = some (.andi 2 1 0xFFFF) ∧
    decodeTableWord 32 0x34220005 = some (.ori 2 1 0x5) ∧
    decodeTableWord 32 0x3822FFFF = some (.xori 2 1 0xFFFF) ∧
    decodeTableWord 32 0x3C021234 = some (.lhi 2 0x1234) ∧
    decodeTableWord 32 0x50220005 = some (.slli 2 1 0x5) ∧
    decodeTableWord 32 0x58220005 = some (.srli 2 1 0x5) ∧
    decodeTableWord 32 0x5C220005 = some (.srai 2 1 0x5) := by decide
theorem test_decode_immediate_alu_b :
    decodeTableWord 32 0x6022FFFF = some (.seqi 2 1 0xFFFF) ∧
    decodeTableWord 32 0x64220005 = some (.snei 2 1 0x5) ∧
    decodeTableWord 32 0x68220005 = some (.slti 2 1 0x5) ∧
    decodeTableWord 32 0x6C22FFFF = some (.sgti 2 1 0xFFFF) ∧
    decodeTableWord 32 0x70220005 = some (.slei 2 1 0x5) ∧
    decodeTableWord 32 0x74220005 = some (.sgei 2 1 0x5) := by decide
theorem test_decode_register_fpu_a :
    decodeTableWord 32 0x04443000 = some (.addf 6 2 4) ∧
    decodeTableWord 32 0x04443001 = some (.subf 6 2 4) ∧
    decodeTableWord 32 0x04443002 = some (.multf 6 2 4) ∧
    decodeTableWord 32 0x04443003 = some (.divf 6 2 4) ∧
    decodeTableWord 32 0x04443004 = some (.addd 6 2 4) ∧
    decodeTableWord 32 0x04443005 = some (.subd 6 2 4) ∧
    decodeTableWord 32 0x04443006 = some (.multd 6 2 4) ∧
    decodeTableWord 32 0x04443007 = some (.divd 6 2 4) ∧
    decodeTableWord 32 0x0444300E = some (.mult 6 2 4) ∧
    decodeTableWord 32 0x0444300F = some (.div 6 2 4) ∧
    decodeTableWord 32 0x04440010 = some (.eqf 2 4) := by decide
theorem test_decode_register_fpu_b :
    decodeTableWord 32 0x04440011 = some (.nef 2 4) ∧
    decodeTableWord 32 0x04440012 = some (.ltf 2 4) ∧
    decodeTableWord 32 0x04440013 = some (.gtf 2 4) ∧
    decodeTableWord 32 0x04440014 = some (.lef 2 4) ∧
    decodeTableWord 32 0x04440015 = some (.gef 2 4) ∧
    decodeTableWord 32 0x04440018 = some (.eqd 2 4) ∧
    decodeTableWord 32 0x04440019 = some (.ned 2 4) ∧
    decodeTableWord 32 0x0444001A = some (.ltd 2 4) ∧
    decodeTableWord 32 0x0444001B = some (.gtd 2 4) ∧
    decodeTableWord 32 0x0444001C = some (.led 2 4) ∧
    decodeTableWord 32 0x0444001D = some (.ged 2 4) := by decide
theorem test_decode_load :
    decodeTableWord 32 0x80220008 = some (.lb 2 1 0x8) ∧
    decodeTableWord 32 0x90220008 = some (.lbu 2 1 0x8) ∧
    decodeTableWord 32 0x84220008 = some (.lh 2 1 0x8) ∧
    decodeTableWord 32 0x94220008 = some (.lhu 2 1 0x8) ∧
    decodeTableWord 32 0x8C22FFFC = some (.lw 2 1 0xFFFC) ∧
    decodeTableWord 32 0x98220008 = some (.lf 2 1 0x8) ∧
    decodeTableWord 32 0x9C220008 = some (.ld 2 1 0x8) := by decide
theorem test_decode_store :
    decodeTableWord 32 0xA0220008 = some (.sb 2 1 0x8) ∧
    decodeTableWord 32 0xA4220008 = some (.sh 2 1 0x8) ∧
    decodeTableWord 32 0xAC220008 = some (.sw 2 1 0x8) ∧
    decodeTableWord 32 0xB8220008 = some (.sf 2 1 0x8) ∧
    decodeTableWord 32 0xBC220008 = some (.sd 2 1 0x8) := by decide
theorem test_decode_branch :
    decodeTableWord 32 0x10200008 = some (.beqz 1 0x8) ∧
    decodeTableWord 32 0x1420FFF4 = some (.bnez 1 0xFFF4) ∧
    decodeTableWord 32 0x18000008 = some (.bfpt 0x8) ∧
    decodeTableWord 32 0x1C000008 = some (.bfpf 0x8) := by decide
theorem test_decode_jump :
    decodeTableWord 32 0x08000008 = some (.j 0x8) ∧
    decodeTableWord 32 0x0C000010 = some (.jal 0x10) := by decide
theorem test_decode_trap :
    decodeTableWord 32 0x44000000 = some .trap := by decide
theorem test_decode_unimplemented_a :
    decodeTableWord 32 0x40000000 = some .rfe ∧
    decodeTableWord 32 0x4BE00000 = some .jr ∧
    decodeTableWord 32 0x4CA00000 = some .jalr ∧
    decodeTableWord 32 0x00201030 = some .movi2s ∧
    decodeTableWord 32 0x00201031 = some .movs2i ∧
    decodeTableWord 32 0x002219D0 = some .sequ ∧
    decodeTableWord 32 0x002219D1 = some .sneu ∧
    decodeTableWord 32 0x002219D2 = some .sltu ∧
    decodeTableWord 32 0x002219D3 = some .sgtu ∧
    decodeTableWord 32 0x002219D4 = some .sleu ∧
    decodeTableWord 32 0x002219D5 = some .sgeu := by decide
theorem test_decode_unimplemented_b :
    decodeTableWord 32 0xC0228005 = some .sequi ∧
    decodeTableWord 32 0xC4228005 = some .sneui ∧
    decodeTableWord 32 0xC8228005 = some .sltui ∧
    decodeTableWord 32 0xCC228005 = some .sgtui ∧
    decodeTableWord 32 0xD0228005 = some .sleui ∧
    decodeTableWord 32 0xD4228005 = some .sgeui ∧
    decodeTableWord 32 0x002219F2 = some .movf ∧
    decodeTableWord 32 0x002219F3 = some .movd ∧
    decodeTableWord 32 0x002219F4 = some .movfp2i ∧
    decodeTableWord 32 0x002219F5 = some .movi2fp ∧
    decodeTableWord 32 0x042219C8 = some .cvtf2d := by decide
theorem test_decode_unimplemented_c :
    decodeTableWord 32 0x042219C9 = some .cvtf2i ∧
    decodeTableWord 32 0x042219CA = some .cvtd2f ∧
    decodeTableWord 32 0x042219CB = some .cvtd2i ∧
    decodeTableWord 32 0x042219CC = some .cvti2f ∧
    decodeTableWord 32 0x042219CD = some .cvti2d ∧
    decodeTableWord 32 0x042219D6 = some .multu ∧
    decodeTableWord 32 0x042219D7 = some .divu := by decide
theorem test_decode_unassigned : decode [0, 0, 0, 0x54] = .unassigned 0x54000000 ∧ decodeTableWord 32 0x54000000 = none ∧
    classOf 0x54000000 = .unimplemented := by decide
theorem test_decode_truncated : decode [1, 2, 3] = .truncated := by decide

/-! ## Single instructions: the examples of the rules -/

/-- A small machine: 256 bytes, the given registers, slots and bytes, `PC` at 16. -/
def small (regs fregs : List (Reg × Word)) (bytes : List Byte) : State :=
  let s := State.resetWith { Configuration.sample with memSize := 256 } (storeBytes [] 128 bytes) 16
  fregs.foldl (fun s p => s.writeF p.1 p.2) (regs.foldl (fun s p => s.writeReg p.1 p.2) s)

/-- What a completed instruction leaves, as a function of the next state. -/
def after {α : Type} (o : Host.Outcome State Fault Refusal) (f : State → α) : Option α :=
  match o with
  | .next t => some (f t)
  | _ => none

theorem test_add : after (exec (.add 3 1 2) (small [(1, 0x5), (2, 0x7)] [] [])) (fun t => (t.readReg 3, t.pc)) = some (0xC, 20) := by decide
theorem test_add_wraps : after (exec (.add 3 1 2) (small [(1, 0x7FFFFFFF), (2, 0x1)] [] [])) (fun t => (t.readReg 3, t.pc)) = some (0x80000000, 20) := by decide
theorem test_addu : after (exec (.addu 3 1 2) (small [(1, 0xFFFFFFFF), (2, 0x2)] [] [])) (fun t => (t.readReg 3, t.pc)) = some (0x1, 20) := by decide
theorem test_sub : after (exec (.sub 3 1 2) (small [(1, 0x5), (2, 0x7)] [] [])) (fun t => (t.readReg 3, t.pc)) = some (0xFFFFFFFE, 20) := by decide
theorem test_sub_wraps : after (exec (.sub 3 1 2) (small [(1, 0x80000000), (2, 0x1)] [] [])) (fun t => (t.readReg 3, t.pc)) = some (0x7FFFFFFF, 20) := by decide
theorem test_subu : after (exec (.subu 3 1 2) (small [(1, 0x0), (2, 0x1)] [] [])) (fun t => (t.readReg 3, t.pc)) = some (0xFFFFFFFF, 20) := by decide
theorem test_and : after (exec (.and 3 1 2) (small [(1, 0xFF0F), (2, 0xFF0)] [] [])) (fun t => (t.readReg 3, t.pc)) = some (0xF00, 20) := by decide
theorem test_or : after (exec (.or 3 1 2) (small [(1, 0xFF0F), (2, 0xFF0)] [] [])) (fun t => (t.readReg 3, t.pc)) = some (0xFFFF, 20) := by decide
theorem test_xor : after (exec (.xor 3 1 2) (small [(1, 0xFF0F), (2, 0xFF0)] [] [])) (fun t => (t.readReg 3, t.pc)) = some (0xF0FF, 20) := by decide
theorem test_sll : after (exec (.sll 3 1 2) (small [(1, 0x80000001), (2, 0x1)] [] [])) (fun t => (t.readReg 3, t.pc)) = some (0x2, 20) := by decide
theorem test_sll_by_32 : after (exec (.sll 3 1 2) (small [(1, 0x5), (2, 0x20)] [] [])) (fun t => (t.readReg 3, t.pc)) = some (0x5, 20) := by decide
theorem test_srl : after (exec (.srl 3 1 2) (small [(1, 0x80000000), (2, 0x1F)] [] [])) (fun t => (t.readReg 3, t.pc)) = some (0x1, 20) := by decide
theorem test_sra : after (exec (.sra 3 1 2) (small [(1, 0x80000000), (2, 0x1F)] [] [])) (fun t => (t.readReg 3, t.pc)) = some (0xFFFFFFFF, 20) := by decide
theorem test_sra_positive : after (exec (.sra 3 1 2) (small [(1, 0x7FFFFFFF), (2, 0x1F)] [] [])) (fun t => (t.readReg 3, t.pc)) = some (0x0, 20) := by decide
theorem test_seq : after (exec (.seq 3 1 2) (small [(1, 0x5), (2, 0x5)] [] [])) (fun t => (t.readReg 3, t.pc)) = some (0x1, 20) := by decide
theorem test_sne : after (exec (.sne 3 1 2) (small [(1, 0x5), (2, 0x7)] [] [])) (fun t => (t.readReg 3, t.pc)) = some (0x1, 20) := by decide
theorem test_slt_signed : after (exec (.slt 3 1 2) (small [(1, 0xFFFFFFFF), (2, 0x0)] [] [])) (fun t => (t.readReg 3, t.pc)) = some (0x1, 20) := by decide
theorem test_sgt_signed : after (exec (.sgt 3 1 2) (small [(1, 0x0), (2, 0x80000000)] [] [])) (fun t => (t.readReg 3, t.pc)) = some (0x1, 20) := by decide
theorem test_sle : after (exec (.sle 3 1 2) (small [(1, 0x7), (2, 0x7)] [] [])) (fun t => (t.readReg 3, t.pc)) = some (0x1, 20) := by decide
theorem test_sge_signed : after (exec (.sge 3 1 2) (small [(1, 0x80000000), (2, 0x0)] [] [])) (fun t => (t.readReg 3, t.pc)) = some (0x0, 20) := by decide
theorem test_addi : after (exec (.addi 2 1 0xFFFF) (small [(1, 0x6)] [] [])) (fun t => (t.readReg 2, t.pc)) = some (0x5, 20) := by decide
theorem test_addui : after (exec (.addui 2 1 0xFFFF) (small [(1, 0x1)] [] [])) (fun t => (t.readReg 2, t.pc)) = some (0x10000, 20) := by decide
theorem test_subi : after (exec (.subi 2 1 0x5) (small [(1, 0x3)] [] [])) (fun t => (t.readReg 2, t.pc)) = some (0xFFFFFFFE, 20) := by decide
theorem test_subui : after (exec (.subui 2 1 0xFFFF) (small [(1, 0x10000)] [] [])) (fun t => (t.readReg 2, t.pc)) = some (0x1, 20) := by decide
theorem test_andi : after (exec (.andi 2 1 0xFFFF) (small [(1, 0x12345678)] [] [])) (fun t => (t.readReg 2, t.pc)) = some (0x5678, 20) := by decide
theorem test_ori : after (exec (.ori 2 1 0x5) (small [(1, 0x12340000)] [] [])) (fun t => (t.readReg 2, t.pc)) = some (0x12340005, 20) := by decide
theorem test_xori : after (exec (.xori 2 1 0xFFFF) (small [(1, 0xFFFF)] [] [])) (fun t => (t.readReg 2, t.pc)) = some (0x0, 20) := by decide
theorem test_slli : after (exec (.slli 2 1 0x5) (small [(1, 0x1)] [] [])) (fun t => (t.readReg 2, t.pc)) = some (0x20, 20) := by decide
theorem test_slli_ignores_high : after (exec (.slli 2 1 0xFFE5) (small [(1, 0x1)] [] [])) (fun t => (t.readReg 2, t.pc)) = some (0x20, 20) := by decide
theorem test_srli : after (exec (.srli 2 1 0x5) (small [(1, 0x80000000)] [] [])) (fun t => (t.readReg 2, t.pc)) = some (0x4000000, 20) := by decide
theorem test_srai : after (exec (.srai 2 1 0x5) (small [(1, 0x80000000)] [] [])) (fun t => (t.readReg 2, t.pc)) = some (0xFC000000, 20) := by decide
theorem test_seqi : after (exec (.seqi 2 1 0xFFFF) (small [(1, 0xFFFFFFFF)] [] [])) (fun t => (t.readReg 2, t.pc)) = some (0x1, 20) := by decide
theorem test_snei : after (exec (.snei 2 1 0x5) (small [(1, 0x5)] [] [])) (fun t => (t.readReg 2, t.pc)) = some (0x0, 20) := by decide
theorem test_slti : after (exec (.slti 2 1 0x5) (small [(1, 0xFFFFFFFF)] [] [])) (fun t => (t.readReg 2, t.pc)) = some (0x1, 20) := by decide
theorem test_sgti : after (exec (.sgti 2 1 0xFFFF) (small [(1, 0x0)] [] [])) (fun t => (t.readReg 2, t.pc)) = some (0x1, 20) := by decide
theorem test_slei : after (exec (.slei 2 1 0x5) (small [(1, 0x5)] [] [])) (fun t => (t.readReg 2, t.pc)) = some (0x1, 20) := by decide
theorem test_sgei : after (exec (.sgei 2 1 0x5) (small [(1, 0x4)] [] [])) (fun t => (t.readReg 2, t.pc)) = some (0x0, 20) := by decide
theorem test_lhi : after (exec (.lhi 2 0x1234) (small [] [] [])) (fun t => (t.readReg 2, t.pc)) = some (0x12340000, 20) := by decide
theorem test_writes_r0 : after (exec (.addi 0 0 5) (small [] [] [])) (fun t => (t.readReg 0, t.pc)) = some (5, 20) := by decide
theorem test_source_is_destination : after (exec (.add 1 1 1) (small [(1, 21)] [] [])) (fun t => (t.readReg 1, t.pc)) = some (42, 20) := by decide
theorem test_addf : after (exec (.addf 6 2 4) (small [] [(2, 0x3FC00000), (4, 0x40100000)] [])) (fun t => (t.readF 6, t.pc)) = some (0x40700000, 20) := by decide
theorem test_subf : after (exec (.subf 6 2 4) (small [] [(2, 0x3FC00000), (4, 0x40100000)] [])) (fun t => (t.readF 6, t.pc)) = some (0xBF400000, 20) := by decide
theorem test_multf : after (exec (.multf 6 2 4) (small [] [(2, 0x3FC00000), (4, 0x40100000)] [])) (fun t => (t.readF 6, t.pc)) = some (0x40580000, 20) := by decide
theorem test_divf_rounds : after (exec (.divf 6 2 4) (small [] [(2, 0x3FC00000), (4, 0x40100000)] [])) (fun t => (t.readF 6, t.pc)) = some (0x3F2AAAAB, 20) := by decide
theorem test_divf_by_zero : after (exec (.divf 6 2 4) (small [] [(2, 0x3F800000), (4, 0x0)] [])) (fun t => (t.readF 6, t.pc)) = some (0x7F800000, 20) := by decide
theorem test_mult : after (exec (.mult 6 2 4) (small [] [(2, 0x6), (4, 0xFFFFFFF9)] [])) (fun t => (t.readF 6, t.pc)) = some (0xFFFFFFD6, 20) := by decide
theorem test_div_toward_zero : after (exec (.div 6 2 4) (small [] [(2, 0xFFFFFFF9), (4, 0x2)] [])) (fun t => (t.readF 6, t.pc)) = some (0xFFFFFFFD, 20) := by decide
theorem test_div_by_negative : after (exec (.div 6 2 4) (small [] [(2, 0x7), (4, 0xFFFFFFFE)] [])) (fun t => (t.readF 6, t.pc)) = some (0xFFFFFFFD, 20) := by decide
theorem test_addd : after (exec (.addd 6 2 4) (small [] [(3, 0x3FF80000), (5, 0x40020000)] [])) (fun t => (t.readFD 6, t.pc)) = some (0x400E000000000000, 20) := by decide +kernel
theorem test_subd : after (exec (.subd 6 2 4) (small [] [(3, 0x3FF80000), (5, 0x40020000)] [])) (fun t => (t.readFD 6, t.pc)) = some (0xBFE8000000000000, 20) := by decide +kernel
theorem test_multd : after (exec (.multd 6 2 4) (small [] [(3, 0x3FF80000), (5, 0x40020000)] [])) (fun t => (t.readFD 6, t.pc)) = some (0x400B000000000000, 20) := by decide +kernel
theorem test_divd_rounds : after (exec (.divd 6 2 4) (small [] [(3, 0x3FF80000), (5, 0x40020000)] [])) (fun t => (t.readFD 6, t.pc)) = some (0x3FE5555555555555, 20) := by decide +kernel
theorem test_addd_overlapping_pairs : after (exec (.addd 2 2 4) (small [] [(3, 0x3FF80000), (5, 0x40020000)] [])) (fun t => t.readFD 2) = some 0x400E000000000000 := by decide +kernel
theorem test_eqf_zeros : after (exec (.eqf 2 4) (small [] [(2, 0x0), (4, 0x80000000)] [])) (fun t => (t.fps, t.pc)) = some (true, 20) := by decide
theorem test_nef : after (exec (.nef 2 4) (small [] [(2, 0x3FC00000), (4, 0x40100000)] [])) (fun t => (t.fps, t.pc)) = some (true, 20) := by decide
theorem test_ltf : after (exec (.ltf 2 4) (small [] [(2, 0x3FC00000), (4, 0x40100000)] [])) (fun t => (t.fps, t.pc)) = some (true, 20) := by decide
theorem test_gtf : after (exec (.gtf 2 4) (small [] [(2, 0x3FC00000), (4, 0x40100000)] [])) (fun t => (t.fps, t.pc)) = some (false, 20) := by decide
theorem test_lef : after (exec (.lef 2 4) (small [] [(2, 0x40100000), (4, 0x40100000)] [])) (fun t => (t.fps, t.pc)) = some (true, 20) := by decide
theorem test_gef : after (exec (.gef 2 4) (small [] [(2, 0x3FC00000), (4, 0x40100000)] [])) (fun t => (t.fps, t.pc)) = some (false, 20) := by decide
theorem test_eqd : after (exec (.eqd 2 4) (small [] [(3, 0x3FF80000), (5, 0x40020000)] [])) (fun t => (t.fps, t.pc)) = some (false, 20) := by decide +kernel
theorem test_ltd : after (exec (.ltd 2 4) (small [] [(3, 0x3FF80000), (5, 0x40020000)] [])) (fun t => (t.fps, t.pc)) = some (true, 20) := by decide +kernel
theorem test_gtd : after (exec (.gtd 2 4) (small [] [(3, 0x3FF80000), (5, 0x40020000)] [])) (fun t => (t.fps, t.pc)) = some (false, 20) := by decide +kernel
theorem test_led : after (exec (.led 2 4) (small [] [(3, 0x3FF80000), (5, 0x40020000)] [])) (fun t => (t.fps, t.pc)) = some (true, 20) := by decide +kernel
theorem test_ged : after (exec (.ged 2 4) (small [] [(3, 0x3FF80000), (5, 0x40020000)] [])) (fun t => (t.fps, t.pc)) = some (false, 20) := by decide +kernel
theorem test_ned_nan : after (exec (.ned 2 2) (small [] [(3, 0x7FF80000)] [])) (fun t => (t.fps, t.pc)) = some (true, 20) := by decide +kernel
theorem test_lb : after (exec (.lb 2 1 1) (small [(1, 128)] [] [0x34, 0xF2, 0x34, 0x12, 0x00, 0x00, 0xF8, 0x3F])) (fun t => (t.readReg 2, t.pc)) = some (0xFFFFFFF2, 20) := by decide
theorem test_lbu : after (exec (.lbu 2 1 1) (small [(1, 128)] [] [0x34, 0xF2, 0x34, 0x12, 0x00, 0x00, 0xF8, 0x3F])) (fun t => (t.readReg 2, t.pc)) = some (0xF2, 20) := by decide
theorem test_lh : after (exec (.lh 2 1 0) (small [(1, 128)] [] [0x34, 0xF2, 0x34, 0x12, 0x00, 0x00, 0xF8, 0x3F])) (fun t => (t.readReg 2, t.pc)) = some (0xFFFFF234, 20) := by decide
theorem test_lhu : after (exec (.lhu 2 1 0) (small [(1, 128)] [] [0x34, 0xF2, 0x34, 0x12, 0x00, 0x00, 0xF8, 0x3F])) (fun t => (t.readReg 2, t.pc)) = some (0xF234, 20) := by decide
theorem test_lw_negative_displacement : after (exec (.lw 2 1 0xFFFC) (small [(1, 132)] [] [0x34, 0xF2, 0x34, 0x12, 0x00, 0x00, 0xF8, 0x3F])) (fun t => (t.readReg 2, t.pc)) = some (0x1234F234, 20) := by decide
theorem test_lw_unaligned : after (exec (.lw 2 1 1) (small [(1, 128)] [] [0x34, 0xF2, 0x34, 0x12, 0x00, 0x00, 0xF8, 0x3F])) (fun t => (t.readReg 2, t.pc)) = some (0x001234F2, 20) := by decide
theorem test_lf : after (exec (.lf 2 1 4) (small [(1, 128)] [] [0x34, 0xF2, 0x34, 0x12, 0x00, 0x00, 0xF8, 0x3F])) (fun t => (t.readF 2, t.pc)) = some (0x3FF80000, 20) := by decide
theorem test_ld : after (exec (.ld 2 1 0) (small [(1, 128)] [] [0x34, 0xF2, 0x34, 0x12, 0x00, 0x00, 0xF8, 0x3F])) (fun t => (t.readF 2, t.readF 3)) = some (0x1234F234, 0x3FF80000) := by decide
theorem test_sb : after (exec (.sb 2 1 0) (small [(1, 128), (2, 0x12345678)] [(2, 0x3FC00000), (3, 0x3FF80000)] [1, 1, 1, 1, 1, 1, 1, 1, 1])) (fun t => t.mem.take 2) = some [(128, 0x78), (129, 1)] := by decide
theorem test_sh : after (exec (.sh 2 1 0) (small [(1, 128), (2, 0x12345678)] [(2, 0x3FC00000), (3, 0x3FF80000)] [1, 1, 1, 1, 1, 1, 1, 1, 1])) (fun t => t.mem.take 3) = some [(128, 0x78), (129, 0x56), (130, 1)] := by decide
theorem test_sw : after (exec (.sw 2 1 0) (small [(1, 128), (2, 0x12345678)] [(2, 0x3FC00000), (3, 0x3FF80000)] [1, 1, 1, 1, 1, 1, 1, 1, 1])) (fun t => t.mem.take 5) = some [(128, 0x78), (129, 0x56), (130, 0x34), (131, 0x12), (132, 1)] := by decide
theorem test_sf_drops_zero_bytes : after (exec (.sf 2 1 0) (small [(1, 128), (2, 0x12345678)] [(2, 0x3FC00000), (3, 0x3FF80000)] [1, 1, 1, 1, 1, 1, 1, 1, 1])) (fun t => t.mem.take 3) = some [(130, 0xC0), (131, 0x3F), (132, 1)] := by decide
theorem test_sd : after (exec (.sd 2 1 0) (small [(1, 128), (2, 0x12345678)] [(2, 0x3FC00000), (3, 0x3FF80000)] [1, 1, 1, 1, 1, 1, 1, 1, 1])) (fun t => t.mem) =
    some [(130, 0xC0), (131, 0x3F), (134, 0xF8), (135, 0x3F), (136, 1)] := by decide
theorem test_sd_out_of_range : (match exec (.sd 2 1 0) (small [(1, 249)] [] []) with | .fault f => f == .outOfRangeData 249 | _ => false) = true := by decide
theorem test_sd_at_the_end : (after (exec (.sd 2 1 0) (small [(1, 248)] [] [])) (fun t => t.pc)) = some 20 := by decide
theorem test_ld_slot31_refused : (match exec (.ld 31 1 0) (small [] [] []) with | .refused r => r == .doubleAtSlot31 | _ => false) = true := by decide
theorem test_beqz_taken : after (exec (.beqz 1 8) (small [] [] [])) (fun t => t.pc) = some 28 := by decide
theorem test_beqz_not_taken : after (exec (.beqz 1 8) (small [(1, 1)] [] [])) (fun t => t.pc) = some 20 := by decide
theorem test_bnez_back : after (exec (.bnez 1 0xFFF4) (small [(1, 3)] [] [])) (fun t => t.pc) = some 8 := by decide
theorem test_bfpt : after (exec (.bfpt 8) ((small [] [] []).writeFps true)) (fun t => t.pc) = some 28 := by decide
theorem test_bfpf : after (exec (.bfpf 8) ((small [] [] []).writeFps true)) (fun t => t.pc) = some 20 := by decide
theorem test_j : after (exec (.j 8) (small [] [] [])) (fun t => t.pc) = some 28 := by decide
theorem test_j_back : after (exec (.j 0x3FFFFF8) (small [] [] [])) (fun t => t.pc) = some 12 := by decide
theorem test_jal : after (exec (.jal 16) (small [] [] [])) (fun t => (t.readReg 31, t.pc)) = some (20, 36) := by decide
theorem test_trap : after (exec .trap (small [] [] [])) (fun t => (t.halted, t.pc)) = some (true, 16) := by decide
theorem test_jr_does_nothing : after (exec .jr (small [(31, 8)] [] [])) (fun t => t) = some (small [(31, 8)] [] []).advance := by decide

/-! ## Single cycles (95_test_vectors.md) -/

/-- `small` with words in memory at `PC`, and what is in flight put in by `f`. -/
def running (words : List Word) (f : State → State) : State :=
  let s := small [(1, 5), (2, 7)] [] []
  f { s with mem := storeBytes s.mem 16 (words.flatMap bytesOfWord) }

theorem test_fetch : after (step (running [0x00221820] id)) (fun t => (t.ifId.iw, t.ifId.pc, t.pc)) = some (0x00221820, 16, 20) := by decide
theorem test_decode_stages_operands : after (step (running [] fun s => { s with ifId := { iw := 0x00221820, pc := 12 } }))
    (fun t => (t.idEx.a, t.idEx.b, t.stalled)) = some (5, 7, false) := by decide
theorem test_decode_waits : after (step (running [] fun s => { s with ifId := { iw := 0x00221820, pc := 12 }, ui := fileSet s.ui 1 true }))
    (fun t => (t.idEx, t.ifId.iw, t.pc, t.stalled)) = some (nopIdEx, 0x00221820, 16, true) := by decide
theorem test_decode_forwards : after (step (running [] fun s => { s with
      ifId := { iw := 0x00221820, pc := 12 }
      ui := fileSet s.ui 1 true
      aluPool := [.busy 30 12 (.int .add) 1 (.r 1)] })) (fun t => (t.idEx.a, t.memWb.resAlu)) =
    some (42, some { tag := .r 1, value := 42 }) := by decide
theorem test_execute_dispatches : after (step (running [] fun s => { s with idEx := { iw := 0x00221820, pc := 8, a := 5, b := 7, cond := false } }))
    (fun t => (t.aluPool, fileGet t.ui 3, t.exMem.iw)) =
    some ([.busy 5 7 (.int .add) 1 (.r 3)], true, 0x00221820) := by decide
theorem test_execute_stall : after (step (running [] fun s => { s with
      idEx := { iw := 0x04443003, pc := 8, a := 5, b := 7, cond := false }
      fdivPool := [.busy 0 0 (.arith .div .single) 2 (.fs 9)] })) (fun t => (t.idEx.iw, t.exMem, t.pc, t.stalled)) =
    some (0x04443003, nopExMem, 16, true) := by decide
theorem test_taken_branch : after (step (running [] fun s => { s with
      exMem := { iw := 0x08000008, pc := 4, cond := true, aluout := 64, acc := .none }
      idEx := { iw := 0x00221820, pc := 8, a := 5, b := 7, cond := false }
      ifId := { iw := 0x00221820, pc := 12 } })) (fun t => (t.pc, t.ifId.pc, t.idEx, t.exMem, fileGet t.ui 3)) =
    some (68, 64, nopIdEx, nopExMem, false) := by decide
theorem test_memory_read : after (step (running [0x80] fun s => { s with
      exMem := { iw := 0x80220008, pc := 4, cond := false, aluout := 0, acc := .read (.r 2) 16 .byte true } }))
    (fun t => t.memWb.lmd) = some (some { tag := .r 2, value := 0xFFFFFF80 }) := by decide
theorem test_writeback_commits : after (step (running [] fun s => { s with
      memWb := { nopMemWb with resFadd := some { tag := .fd 2, value := 0x3FF8000000000001 } }
      uf := fileSet (fileSet s.uf 2 true) 3 true }))
    (fun t => (t.readF 2, t.readF 3, fileGet t.uf 2, fileGet t.uf 3)) = some (1, 0x3FF80000, false, false) := by decide
theorem test_trap_halts_in_writeback : after (step (running [] fun s => { s with memWb := { nopMemWb with iw := 0x44000000 } }))
    (fun t => (t.halted, t.pc)) = some (true, 20) := by decide
theorem test_jal_links_in_writeback : after (step (running [] fun s => { s with memWb := { nopMemWb with iw := 0x0C000010, pc := 0x100 } }))
    (fun t => t.readReg 31) = some 0x104 := by decide
theorem test_reset_next : after (step State.reset) (fun t => t.pc) = some 4 := by decide
theorem test_word_at_pc_is_fetched : after (step (State.reset.withWordAtPc 32 0x00221820)) (fun t => t.ifId.iw) = some 0x00221820 := by decide

/-! ## The step after `withFetchWord` is the one in which the instruction takes effect (R431) -/

theorem test_first_addi : after (step (State.reset.withFetchWord 32 0x20010005)) (fun t => (t.readReg 1, t.pc)) = some (5, 20) := by decide
theorem test_first_lw : after (step (State.reset.withFetchWord 32 0x8C220000)) (fun t => t.readReg 2) = some 0x8C220000 := by decide
theorem test_first_eqd : after (step (State.reset.withFetchWord 32 0x04440018)) (fun t => (t.fps, t.pc)) = some (true, 24) := by decide +kernel
theorem test_first_sw : after (step ((small [(1, 128), (2, 0x12345678)] [] []).withFetchWord 32 0xAC220000)) (fun t => readLE t.mem 128 4) =
    some 0x12345678 := by decide
theorem test_first_sw_not_before : readLE ((small [(1, 128), (2, 0x12345678)] [] []).withFetchWord 32 0xAC220000).mem 128 4 = 0 := by decide
theorem test_first_beqz : after (step (State.reset.withFetchWord 32 0x10200008)) (fun t => (t.pc, t.ifId.pc)) = some (16, 12) := by decide
theorem test_first_jal : after (step (State.reset.withFetchWord 32 0x0C000010)) (fun t => (t.readReg 31, t.pc)) = some (4, 28) := by decide
theorem test_first_trap : after (step (State.reset.withFetchWord 32 0x44000000)) (fun t => t.halted) = some true := by decide
theorem test_first_out_of_range : (match step ((small [(1, 249)] [] []).withFetchWord 32 0x9C220000) with | .fault f => f == .outOfRangeData 249 | _ => false) = true := by decide
theorem test_first_slot31_refused : (match step (State.reset.withFetchWord 32 0x9C3F0008) with | .refused r => r == .doubleAtSlot31 | _ => false) = true := by decide

/-! ## Witnesses: for each obligation with hypotheses, a state and operands that meet them -/

theorem witness_IgnoredFieldsIgnored :
    (fieldOpcode 0x00221820 = fieldOpcode 0x00221FE0 ∧ fieldOpcode 0x00221820 ∈ [0x00, 0x01] ∧
      fieldRs1 0x00221820 = fieldRs1 0x00221FE0 ∧ fieldRs2 0x00221820 = fieldRs2 0x00221FE0 ∧
      fieldRdR 0x00221820 = fieldRdR 0x00221FE0 ∧ fieldFunct 0x00221820 = fieldFunct 0x00221FE0) ∧
    (fieldOpcode 0x04440010 = 1 ∧ fieldOpcode 0x0444F810 = 1 ∧ 0x10 ≤ (fieldFunct 0x04440010).toNat ∧
      fieldRs1 0x04440010 = fieldRs1 0x0444F810 ∧ fieldRs2 0x04440010 = fieldRs2 0x0444F810 ∧
      fieldFunct 0x04440010 = fieldFunct 0x0444F810) ∧
    (fieldOpcode 0x10200008 = fieldOpcode 0x103F0008 ∧ fieldOpcode 0x10200008 ∈ [0x04, 0x05] ∧
      fieldRs1 0x10200008 = fieldRs1 0x103F0008 ∧ fieldImm 0x10200008 = fieldImm 0x103F0008) ∧
    (fieldOpcode 0x18000008 = fieldOpcode 0x1BFF0008 ∧ fieldOpcode 0x18000008 ∈ [0x06, 0x07] ∧
      fieldImm 0x18000008 = fieldImm 0x1BFF0008) ∧
    (fieldOpcode 0x3C021234 = 0x0F ∧ fieldOpcode 0x3FE21234 = 0x0F ∧ fieldRdI 0x3C021234 = fieldRdI 0x3FE21234 ∧
      fieldImm 0x3C021234 = fieldImm 0x3FE21234) ∧
    fieldOpcode 0x44000155 = 0x11 ∧ fieldOpcode 0x40000155 = 0x10 ∧ fieldOpcode 0x4BE00000 = 0x12 ∧
    fieldOpcode 0x4CA00000 = 0x13 ∧ fieldOpcode 0x002219C0 = 0 ∧ fieldFunct 0x002219C0 = 0 := by decide
theorem witness_UnassignedWordsPass : decodeWord 0x54000000 = none ∧ decodeWord 0xD8000000 = none ∧
    decodeWord 0x00000001 = none ∧ decodeWord 0x0400001E = none ∧ decodeWord 0x0000003F = none := by decide
theorem witness_MemReadIsLittleEndianSum : (252#32).toNat + Width.word.bytes ≤ 256 ∧ 256 < (253#32).toNat + Width.word.bytes := by decide
theorem witness_MemWriteWritesItsBytes : Memory.wf [(3, 1), (7, 2)] = true ∧ (252#32).toNat + Width.word.bytes ≤ 256 ∧
    256 < (253#32).toNat + Width.word.bytes := by decide
theorem witness_DoubleIsTwoWords : 256 ≤ 2 ^ 32 ∧ (248#32).toNat + 8 ≤ 256 := by decide
theorem witness_PairOverlaysSlots : (30 : Reg).toNat ≤ 30 ∧ (5 : Reg) ≠ 30 ∧ (5 : Reg) ≠ 30 + 1 := by decide
theorem witness_IntegerAddSubtractLogic_rows :
    fieldOpcode 0x00221820 = 0x00 ∧ fieldFunct 0x00221820 = 0x20 ∧
    fieldOpcode 0x00221822 = 0x00 ∧ fieldFunct 0x00221822 = 0x22 ∧
    fieldOpcode 0x00221824 = 0x00 ∧ fieldFunct 0x00221824 = 0x24 ∧
    fieldOpcode 0x00221825 = 0x00 ∧ fieldFunct 0x00221825 = 0x25 ∧
    fieldOpcode 0x00221826 = 0x00 ∧ fieldFunct 0x00221826 = 0x26 := by decide
theorem witness_IntegerUnsignedTwins_rows :
    fieldOpcode 0x00221821 = 0x00 ∧ fieldFunct 0x00221821 = 0x21 ∧
    fieldOpcode 0x00221823 = 0x00 ∧ fieldFunct 0x00221823 = 0x23 := by decide
theorem witness_IntegerShifts_rows :
    fieldOpcode 0x00221804 = 0x00 ∧ fieldFunct 0x00221804 = 0x04 ∧
    fieldOpcode 0x00221806 = 0x00 ∧ fieldFunct 0x00221806 = 0x06 ∧
    fieldOpcode 0x00221807 = 0x00 ∧ fieldFunct 0x00221807 = 0x07 := by decide
theorem witness_IntegerSets_rows :
    fieldOpcode 0x00221828 = 0x00 ∧ fieldFunct 0x00221828 = 0x28 ∧
    fieldOpcode 0x00221829 = 0x00 ∧ fieldFunct 0x00221829 = 0x29 ∧
    fieldOpcode 0x0022182A = 0x00 ∧ fieldFunct 0x0022182A = 0x2A ∧
    fieldOpcode 0x0022182B = 0x00 ∧ fieldFunct 0x0022182B = 0x2B ∧
    fieldOpcode 0x0022182C = 0x00 ∧ fieldFunct 0x0022182C = 0x2C ∧
    fieldOpcode 0x0022182D = 0x00 ∧ fieldFunct 0x0022182D = 0x2D := by decide
theorem witness_ImmediateArithmeticLogic_rows :
    fieldOpcode 0x20220005 = 0x08 ∧
    fieldOpcode 0x28220005 = 0x0A ∧
    fieldOpcode 0x30220005 = 0x0C ∧
    fieldOpcode 0x34220005 = 0x0D ∧
    fieldOpcode 0x38220005 = 0x0E := by decide
theorem witness_ImmediateUnsignedAndHigh_rows :
    fieldOpcode 0x24220005 = 0x09 ∧
    fieldOpcode 0x2C220005 = 0x0B ∧
    fieldOpcode 0x3C220005 = 0x0F := by decide
theorem witness_ImmediateShifts_rows :
    fieldOpcode 0x50220005 = 0x14 ∧
    fieldOpcode 0x58220005 = 0x16 ∧
    fieldOpcode 0x5C220005 = 0x17 := by decide
theorem witness_ImmediateSets_rows :
    fieldOpcode 0x60220005 = 0x18 ∧
    fieldOpcode 0x64220005 = 0x19 ∧
    fieldOpcode 0x68220005 = 0x1A ∧
    fieldOpcode 0x6C220005 = 0x1B ∧
    fieldOpcode 0x70220005 = 0x1C ∧
    fieldOpcode 0x74220005 = 0x1D := by decide
theorem witness_SingleArithmetic_rows :
    fieldOpcode 0x04221800 = 0x01 ∧ fieldFunct 0x04221800 = 0x00 ∧
    fieldOpcode 0x04221801 = 0x01 ∧ fieldFunct 0x04221801 = 0x01 ∧
    fieldOpcode 0x04221802 = 0x01 ∧ fieldFunct 0x04221802 = 0x02 ∧
    fieldOpcode 0x04221803 = 0x01 ∧ fieldFunct 0x04221803 = 0x03 := by decide
theorem witness_DoubleArithmetic_rows :
    fieldOpcode 0x04221804 = 0x01 ∧ fieldFunct 0x04221804 = 0x04 ∧
    fieldOpcode 0x04221805 = 0x01 ∧ fieldFunct 0x04221805 = 0x05 ∧
    fieldOpcode 0x04221806 = 0x01 ∧ fieldFunct 0x04221806 = 0x06 ∧
    fieldOpcode 0x04221807 = 0x01 ∧ fieldFunct 0x04221807 = 0x07 := by decide
theorem witness_DoubleArithmetic : (30 : Reg) ≠ 31 ∧ (0 : Reg) ≠ 31 := by decide
theorem witness_DoubleAtSlot31Refused :
    decodeWord 0x9C3F0008 = some (.ld 31 1 8) ∧ (Instr.ld 31 1 8).wellFormed = false ∧
    Running (running [] fun s => { s with idEx := { nopIdEx with iw := 0x9C3F0008 } }) ∧
    (running [] fun s => { s with idEx := { nopIdEx with iw := 0x9C3F0008 } }).exMem = nopExMem := ⟨rfl, rfl, ⟨rfl, rfl⟩, rfl⟩
theorem witness_FpResultsNearestEven :
    fpFinite binary32 0x7F7FFFFF ∧ fpFinite binary32 1 ∧ fpIsZero binary32 1 = false ∧
    fpArith binary32 .add 0x7F7FFFFF 1 = some 0x7F7FFFFF ∧ fpArith binary32 .sub 0x7F7FFFFF 0x7F7FFFFF = some 0 ∧
    fpArith binary32 .mul 0x7F7FFFFF 0x7F7FFFFF = some 0x7F800000 ∧ fpArith binary32 .div 0x3F800000 0x40400000 =
      some 0x3EAAAAAB := by
  refine ⟨⟨?_, ?_⟩, ⟨?_, ?_⟩, ?_, ?_, ?_, ?_, ?_⟩ <;> decide +kernel
theorem witness_FpResultsNearestEven_double :
    fpFinite binary64 0x7FEFFFFFFFFFFFFF ∧ fpFinite binary64 1 ∧ fpIsZero binary64 1 = false ∧
    fpArith binary64 .add 0x7FEFFFFFFFFFFFFF 1 = some 0x7FEFFFFFFFFFFFFF ∧
    fpArith binary64 .mul 1 0x3FE0000000000000 = some 0 := by
  refine ⟨⟨?_, ?_⟩, ⟨?_, ?_⟩, ?_, ?_, ?_⟩ <;> decide +kernel
theorem witness_FpResultsNearestEven_words :
    (fpFinite binary32 (0x7F7FFFFF#32).toNat ∧ fpFinite binary32 (1#32).toNat ∧
      fpIsZero binary32 (1#32).toNat = false) ∧
    fpFinite binary64 (0x7FEFFFFFFFFFFFFF#64).toNat ∧ fpFinite binary64 (1#64).toNat ∧
      fpIsZero binary64 (1#64).toNat = false := by
  refine ⟨⟨⟨?_, ?_⟩, ⟨?_, ?_⟩, ?_⟩, ⟨?_, ?_⟩, ⟨?_, ?_⟩, ?_⟩ <;> decide +kernel
theorem witness_DivisionByZeroAndInfinities :
    (fpFinite binary32 (0x3F800000#32).toNat ∧ ¬ fpIsZero binary32 (0x3F800000#32).toNat = true) ∧
    fpFinite binary32 (0xBF800000#32).toNat ∧ (fpFinite binary32 (0x80000000#32).toNat ∧ fpIsZero binary32 (0x80000000#32).toNat = true) ∧
    fpIsInf binary32 (0xFF800000#32).toNat = true ∧ fpIsInf binary32 (0x7F800000#32).toNat = true ∧
    ((0xFF800000#32)).msb ≠ ((0x7F800000#32)).msb ∧
    fpValue binary32 (0x3F800000#32).toNat + fpValue binary32 (0xBF800000#32).toNat = 0 := by
  refine ⟨⟨⟨?_, ?_⟩, ?_⟩, ⟨?_, ?_⟩, ⟨⟨?_, ?_⟩, ?_⟩, ?_, ?_, ?_, ?_⟩ <;> decide +kernel
theorem witness_DivisionByZeroAndInfinities_double :
    (fpFinite binary64 (0x3FF0000000000000#64).toNat ∧ ¬ fpIsZero binary64 (0x3FF0000000000000#64).toNat = true) ∧
    fpFinite binary64 (0xBFF0000000000000#64).toNat ∧ (fpFinite binary64 (0x8000000000000000#64).toNat ∧ fpIsZero binary64 (0x8000000000000000#64).toNat = true) ∧
    fpIsInf binary64 (0xFFF0000000000000#64).toNat = true ∧ fpIsInf binary64 (0x7FF0000000000000#64).toNat = true ∧
    ((0xFFF0000000000000#64)).msb ≠ ((0x7FF0000000000000#64)).msb ∧
    fpValue binary64 (0x3FF0000000000000#64).toNat + fpValue binary64 (0xBFF0000000000000#64).toNat = 0 := by
  refine ⟨⟨⟨?_, ?_⟩, ?_⟩, ⟨?_, ?_⟩, ⟨⟨?_, ?_⟩, ?_⟩, ?_, ?_, ?_, ?_⟩ <;> decide +kernel
theorem witness_IntegerMultiplyDivide_rows :
    fieldOpcode 0x0422180E = 0x01 ∧ fieldFunct 0x0422180E = 0x0E ∧
    fieldOpcode 0x0422180F = 0x01 ∧ fieldFunct 0x0422180F = 0x0F := by decide
theorem witness_IntegerMultiplyDivide :
    (-2 ^ 31 ≤ ((small [] [(2, 0x80000000), (4, 0x1)] []).readF 2).toInt * ((small [] [(2, 0x80000000), (4, 0x1)] []).readF 4).toInt ∧
      ((small [] [(2, 0x80000000), (4, 0x1)] []).readF 2).toInt * ((small [] [(2, 0x80000000), (4, 0x1)] []).readF 4).toInt < 2 ^ 31) ∧
    2 ^ 31 ≤ ((small [] [(2, 0x10000), (4, 0x8000)] []).readF 2).toInt * ((small [] [(2, 0x10000), (4, 0x8000)] []).readF 4).toInt ∧
    ((small [] [(2, 0x80000000), (4, 0x1)] []).readF 4).toInt ≠ 0 ∧ ¬(((small [] [(2, 0x80000000), (4, 0x1)] []).readF 2).toInt = -2 ^ 31 ∧ ((small [] [(2, 0x80000000), (4, 0x1)] []).readF 4).toInt = -1) ∧
    ((small [] [(2, 0x5), (4, 0x0)] []).readF 4).toInt = 0 ∧
    ((small [] [(2, 0x80000000), (4, 0xFFFFFFFF)] []).readF 2).toInt = -2 ^ 31 ∧ ((small [] [(2, 0x80000000), (4, 0xFFFFFFFF)] []).readF 4).toInt = -1 := by decide
theorem witness_SingleComparisons_rows :
    fieldOpcode 0x04221810 = 0x01 ∧ fieldFunct 0x04221810 = 0x10 ∧
    fieldOpcode 0x04221811 = 0x01 ∧ fieldFunct 0x04221811 = 0x11 ∧
    fieldOpcode 0x04221812 = 0x01 ∧ fieldFunct 0x04221812 = 0x12 ∧
    fieldOpcode 0x04221813 = 0x01 ∧ fieldFunct 0x04221813 = 0x13 ∧
    fieldOpcode 0x04221814 = 0x01 ∧ fieldFunct 0x04221814 = 0x14 ∧
    fieldOpcode 0x04221815 = 0x01 ∧ fieldFunct 0x04221815 = 0x15 := by decide
theorem witness_DoubleComparisons_rows :
    fieldOpcode 0x04221818 = 0x01 ∧ fieldFunct 0x04221818 = 0x18 ∧
    fieldOpcode 0x04221819 = 0x01 ∧ fieldFunct 0x04221819 = 0x19 ∧
    fieldOpcode 0x0422181A = 0x01 ∧ fieldFunct 0x0422181A = 0x1A ∧
    fieldOpcode 0x0422181B = 0x01 ∧ fieldFunct 0x0422181B = 0x1B ∧
    fieldOpcode 0x0422181C = 0x01 ∧ fieldFunct 0x0422181C = 0x1C ∧
    fieldOpcode 0x0422181D = 0x01 ∧ fieldFunct 0x0422181D = 0x1D := by decide
theorem witness_DoubleComparisons : (30 : Reg) ≠ 31 := by decide
theorem witness_IntegerLoads_rows :
    fieldOpcode 0x80220005 = 0x20 ∧
    fieldOpcode 0x90220005 = 0x24 ∧
    fieldOpcode 0x84220005 = 0x21 ∧
    fieldOpcode 0x94220005 = 0x25 ∧
    fieldOpcode 0x8C220005 = 0x23 := by decide
theorem witness_FloatLoads_rows :
    fieldOpcode 0x98220005 = 0x26 ∧
    fieldOpcode 0x9C220005 = 0x27 := by decide
theorem witness_StoresWriteTheirBytes_rows :
    fieldOpcode 0xA0220005 = 0x28 ∧
    fieldOpcode 0xA4220005 = 0x29 ∧
    fieldOpcode 0xAC220005 = 0x2B ∧
    fieldOpcode 0xB8220005 = 0x2E ∧
    fieldOpcode 0xBC220005 = 0x2F := by decide
theorem witness_IntegerLoads :
    (effAddr ((small [(1, 255)] [] [7]).readReg 1) 0).toNat + 1 ≤ (small [(1, 255)] [] [7]).cfg.memSize ∧
    (effAddr ((small [(1, 254)] [] [7]).readReg 1) 0).toNat + 2 ≤ (small [(1, 254)] [] [7]).cfg.memSize ∧
    (effAddr ((small [(1, 252)] [] [7]).readReg 1) 0).toNat + 4 ≤ (small [(1, 252)] [] [7]).cfg.memSize := by decide
theorem witness_FloatLoads :
    (effAddr ((small [(1, 252)] [] [7]).readReg 1) 0).toNat + 4 ≤ (small [(1, 252)] [] [7]).cfg.memSize ∧ (30 : Reg) ≠ 31 ∧
    (effAddr ((small [(1, 248)] [] [7]).readReg 1) 0).toNat + 8 ≤ (small [(1, 248)] [] [7]).cfg.memSize := by decide
theorem witness_StoresWriteTheirBytes :
    Memory.wf (small [(1, 255)] [] [7]).mem = true ∧
    (effAddr ((small [(1, 255)] [] [7]).readReg 1) 0).toNat + 1 ≤ (small [(1, 255)] [] [7]).cfg.memSize ∧
    (effAddr ((small [(1, 254)] [] [7]).readReg 1) 0).toNat + 2 ≤ (small [(1, 254)] [] [7]).cfg.memSize ∧
    (effAddr ((small [(1, 252)] [] [7]).readReg 1) 0).toNat + 4 ≤ (small [(1, 252)] [] [7]).cfg.memSize ∧ (30 : Reg) ≠ 31 ∧
    (effAddr ((small [(1, 248)] [] [7]).readReg 1) 0).toNat + 8 ≤ (small [(1, 248)] [] [7]).cfg.memSize ∧
    (small [(1, 249)] [] [7]).cfg.memSize < (effAddr ((small [(1, 249)] [] [7]).readReg 1) 0).toNat + 8 ∧
    decodeWord 0xA0220008 = some (.sb 2 1 8) := by decide
theorem witness_OutOfRangeAccessFaults :
    (small [(1, 256)] [] [7]).cfg.memSize < (effAddr ((small [(1, 256)] [] [7]).readReg 1) 0).toNat + 1 ∧ (0 : Reg) ≠ 31 ∧
    (small [(1, 249)] [] [7]).cfg.memSize < (effAddr ((small [(1, 249)] [] [7]).readReg 1) 0).toNat + 8 ∧
    exec (.sd 0 1 0) (small [(1, 249)] [] [7]) = .fault (.outOfRangeData 249) := ⟨by decide, by decide, by decide, rfl⟩
theorem witness_ConditionalBranches_rows :
    fieldOpcode 0x10220005 = 0x04 ∧
    fieldOpcode 0x14220005 = 0x05 ∧
    fieldOpcode 0x18220005 = 0x06 ∧
    fieldOpcode 0x1C220005 = 0x07 := by decide
theorem witness_JumpsAndLink_rows : fieldOpcode 0x08000008 = 0x02 ∧ fieldOpcode 0x0C000010 = 0x03 := by decide
theorem witness_TrapHalts : fieldOpcode 0x44000155 = 0x11 := by decide
theorem witness_UnimplementedDoNothing : Instr.jr.instrClass = .unimplemented ∧ Instr.nop.instrClass = .nop := by decide
theorem witness_ArchitecturalFrame : ∃ t, exec (.sw 2 1 0) (small [(1, 252)] [] [7]) = .next t ∧ Memory.wf (small [(1, 252)] [] [7]).mem = true ∧
    Slot.r 2 ∉ writtenSlots (.sw 2 1 0) ∧ ¬ storesTo (.sw 2 1 0) (small [(1, 252)] [] [7]) 251 ∧
    ¬ storesTo (.sw 2 1 0) (small [(1, 252)] [] [7]) 256 := 
  ⟨_, rfl, by decide, by decide, by simp only [storesTo, storedRange]; decide, by simp only [storesTo, storedRange]; decide⟩
theorem witness_ArchitecturalFrame_no_store : ∃ t, exec (.add 3 1 2) (small [(1, 252)] [] [7]) = .next t ∧
    storedRange (small [(1, 252)] [] [7]) (.add 3 1 2) = none ∧ Instr.add 3 1 2 ≠ .trap := ⟨_, rfl, rfl, by decide⟩
theorem witness_EffectDependsOnSourcesOnly :
    (Instr.add 3 1 2).wellFormed = true ∧ (∀ sl ∈ sourceSlots (.add 3 1 2),
      (small [(1, 5), (9, 1)] [] []).readSlot sl = (small [(1, 5)] [] []).readSlot sl) ∧
    (small [(1, 5), (9, 1)] [] []).pc = (small [(1, 5)] [] []).pc ∧
    (small [(1, 5), (9, 1)] [] []).mem = (small [(1, 5)] [] []).mem ∧
    (small [(1, 5), (9, 1)] [] []).cfg = (small [(1, 5)] [] []).cfg ∧
    (∃ t, exec (.add 3 1 2) (small [(1, 5)] [] []) = .next t) ∧
    ∃ f, exec (.lb 3 1 0) (small [(1, 256)] [] [7]) = .fault f := ⟨rfl, by decide, rfl, rfl, rfl, ⟨_, rfl⟩, ⟨_, rfl⟩⟩
theorem witness_ResetState : State.reset = State.resetWith Configuration.sample [] 0 := rfl
theorem witness_ResetMeetsInvariants : { Configuration.sample with memSize := 256 }.wf = true ∧ Memory.wf [(255, 1)] = true ∧
    ∀ c ∈ [((255, 1) : Host.Cell)], c.1 < { Configuration.sample with memSize := 256 }.memSize := by decide
theorem witness_StepRunsTheDecodedInstruction :
    atRest State.reset = true ∧ fetchWord State.reset.cfg.memSize State.reset.mem State.reset.pc = some 0 ∧
    decodeWord 0x00221820 = some (.add 3 1 2) := by decide +kernel
theorem witness_FetchWordIsFetched : Memory.wf ((small [] [] []).setPc 252).mem = true ∧
    ((small [] [] []).setPc 252).pc.toNat + 4 ≤ ((small [] [] []).setPc 252).cfg.memSize := by decide
theorem witness_FetchWordIsFetched_next : ∃ t,
    (small [] [] []).cfg.wf = true ∧ Memory.wf (small [] [] []).mem = true ∧ (small [] [] []).pc.toNat + 4 ≤ (small [] [] []).cfg.memSize ∧
    decodeWord (BitVec.ofNat 32 0x04443003) = some (.divf 6 2 4) ∧ redirects (pathOf (.divf 6 2 4)) ((small [] [] []).withWordAtPc 32 0x04443003) = false ∧
    exec (.divf 6 2 4) ((small [] [] []).withWordAtPc 32 0x04443003) = .next t ∧
    nopsFrom (small [] [] []).cfg.memSize ((small [] [] []).withWordAtPc 32 0x04443003).mem ((small [] [] []).pc + 4) 22 ∧
    nopsFrom (small [] [] []).cfg.memSize t.mem ((small [] [] []).pc + 4) 22 ∧
    lastEffectCycle (small [] [] []).cfg (pathOf (.divf 6 2 4)) - 1 = 22 := by
  refine ⟨_, by decide +kernel, by decide +kernel, by decide +kernel, rfl, by decide +kernel, rfl, ?_, ?_, rfl⟩ <;> unfold nopsFrom <;> decide +kernel
theorem witness_FetchWordIsFetched_next_store : ∃ t,
    (small [(2, 7)] [] []).cfg.wf = true ∧ Memory.wf (small [(2, 7)] [] []).mem = true ∧ (small [(2, 7)] [] []).pc.toNat + 4 ≤ (small [(2, 7)] [] []).cfg.memSize ∧
    decodeWord (BitVec.ofNat 32 0xAC220008) = some (.sw 2 1 8) ∧ redirects (pathOf (.sw 2 1 8)) ((small [(2, 7)] [] []).withWordAtPc 32 0xAC220008) = false ∧
    exec (.sw 2 1 8) ((small [(2, 7)] [] []).withWordAtPc 32 0xAC220008) = .next t ∧
    nopsFrom (small [(2, 7)] [] []).cfg.memSize ((small [(2, 7)] [] []).withWordAtPc 32 0xAC220008).mem ((small [(2, 7)] [] []).pc + 4) 3 ∧
    nopsFrom (small [(2, 7)] [] []).cfg.memSize t.mem ((small [(2, 7)] [] []).pc + 4) 3 ∧
    lastEffectCycle (small [(2, 7)] [] []).cfg (pathOf (.sw 2 1 8)) - 1 = 3 := by
  refine ⟨_, by decide +kernel, by decide +kernel, by decide +kernel, rfl, by decide +kernel, rfl, ?_, ?_, rfl⟩ <;> unfold nopsFrom <;> decide +kernel
theorem witness_FetchWordIsFetched_next_branch : ∃ t,
    (small [] [] []).cfg.wf = true ∧ Memory.wf (small [] [] []).mem = true ∧ (small [] [] []).pc.toNat + 4 ≤ (small [] [] []).cfg.memSize ∧
    decodeWord (BitVec.ofNat 32 0x10200008) = some (.beqz 1 8) ∧ redirects (pathOf (.beqz 1 8)) ((small [] [] []).withWordAtPc 32 0x10200008) = true ∧
    exec (.beqz 1 8) ((small [] [] []).withWordAtPc 32 0x10200008) = .next t ∧
    nopsFrom (small [] [] []).cfg.memSize ((small [] [] []).withWordAtPc 32 0x10200008).mem ((small [] [] []).pc + 4) 2 ∧
    nopsFrom (small [] [] []).cfg.memSize t.mem ((small [] [] []).pc + 4) 2 ∧ nopsFrom (small [] [] []).cfg.memSize t.mem t.pc 2 := by
  refine ⟨_, by decide +kernel, by decide +kernel, by decide +kernel, rfl, by decide +kernel, rfl, ?_, ?_, ?_⟩ <;> unfold nopsFrom <;> decide +kernel
theorem witness_FetchWordIsFetched_next_jump : ∃ t,
    (small [] [] []).cfg.wf = true ∧ Memory.wf (small [] [] []).mem = true ∧ (small [] [] []).pc.toNat + 4 ≤ (small [] [] []).cfg.memSize ∧
    decodeWord (BitVec.ofNat 32 0x0C000010) = some (.jal 16) ∧ redirects (pathOf (.jal 16)) ((small [] [] []).withWordAtPc 32 0x0C000010) = true ∧
    exec (.jal 16) ((small [] [] []).withWordAtPc 32 0x0C000010) = .next t ∧
    nopsFrom (small [] [] []).cfg.memSize ((small [] [] []).withWordAtPc 32 0x0C000010).mem ((small [] [] []).pc + 4) 2 ∧
    nopsFrom (small [] [] []).cfg.memSize t.mem ((small [] [] []).pc + 4) 2 ∧ nopsFrom (small [] [] []).cfg.memSize t.mem t.pc 2 := by
  refine ⟨_, by decide +kernel, by decide +kernel, by decide +kernel, rfl, by decide +kernel, rfl, ?_, ?_, ?_⟩ <;> unfold nopsFrom <;> decide +kernel
theorem witness_FetchWordIsFetched_next_trap : ∃ t,
    (small [] [] []).cfg.wf = true ∧ Memory.wf (small [] [] []).mem = true ∧ (small [] [] []).pc.toNat + 4 ≤ (small [] [] []).cfg.memSize ∧
    decodeWord (BitVec.ofNat 32 0x44000000) = some (.trap) ∧ redirects (pathOf (.trap)) ((small [] [] []).withWordAtPc 32 0x44000000) = false ∧
    exec (.trap) ((small [] [] []).withWordAtPc 32 0x44000000) = .next t ∧
    nopsFrom (small [] [] []).cfg.memSize ((small [] [] []).withWordAtPc 32 0x44000000).mem ((small [] [] []).pc + 4) 4 ∧
    nopsFrom (small [] [] []).cfg.memSize t.mem ((small [] [] []).pc + 4) 4 ∧
    lastEffectCycle (small [] [] []).cfg (pathOf (.trap)) - 1 = 4 := by
  refine ⟨_, by decide +kernel, by decide +kernel, by decide +kernel, rfl, by decide +kernel, rfl, ?_, ?_, rfl⟩ <;> unfold nopsFrom <;> decide +kernel
theorem witness_FetchWordIsFetched_stops :
    decodeWord (BitVec.ofNat 32 0x9C220000) = some (.ld 2 1 0) ∧
    exec (.ld 2 1 0) ((small [(1, 249)] [] []).withWordAtPc 32 0x9C220000) = .fault (.outOfRangeData 249) ∧
    nopsFrom 256 ((small [(1, 249)] [] []).withWordAtPc 32 0x9C220000).mem 20 4 ∧
    decodeWord (BitVec.ofNat 32 0x9C3F0008) = some (.ld 31 1 8) ∧
    exec (.ld 31 1 8) ((small [] [] []).withWordAtPc 32 0x9C3F0008) = .refused .doubleAtSlot31 ∧
    nopsFrom 256 ((small [] [] []).withWordAtPc 32 0x9C3F0008).mem 20 2 := by
  refine ⟨rfl, rfl, ?_, rfl, rfl, ?_⟩ <;> unfold nopsFrom <;> decide +kernel
theorem witness_HaltedStepChangesNothing :
    (small [] [] []).halt.halted = true ∧ { small [] [] [] with fatal := true }.fatal = true ∧
    Running (running [0x00221820] id) ∧ ∃ t, step (running [0x00221820] id) = .next t := ⟨rfl, rfl, ⟨rfl, rfl⟩, _, rfl⟩

/-- A redirect in `EX_MEM`, with younger instructions behind it. -/
def redirecting : State := running [] fun s => { s with
  exMem := { iw := 0x08000008, pc := 4, cond := true, aluout := 252, acc := .none }
  idEx := { iw := 0x00221820, pc := 8, a := 5, b := 7, cond := false }
  ifId := { iw := 0x00221820, pc := 12 } }

/-- A divide in `ID_EX` and the one divider busy. -/
def noDivider : State := running [] fun s => { s with
  idEx := { iw := 0x04443003, pc := 8, a := 5, b := 7, cond := false }
  fdivPool := [.busy 0 0 (.arith .div .single) 2 (.fs 9)] }

/-- An addition in `IF_ID` whose first source is being computed; in this cycle forwarding supplies it. -/
def forwarded : State := running [] fun s => { s with
  ifId := { iw := 0x00221820, pc := 12 }
  ui := fileSet s.ui 1 true
  aluPool := [.busy 30 12 (.int .add) 1 (.r 1)] }

/-- An addition in `IF_ID` whose first source is being loaded a stage away. -/
def waiting : State := running [] fun s => { s with
  ifId := { iw := 0x00221820, pc := 12 }
  ui := fileSet s.ui 1 true
  fdivPool := [.busy 30 12 (.int .add) 3 (.r 1)] }

theorem witness_PcWriters : Running redirecting ∧ redirecting.exMem.cond = true ∧ (∃ t, step redirecting = .next t) ∧
    Running noDivider ∧ noDivider.exMem.cond = false ∧ (∃ t, step noDivider = .next t ∧ t.stalled = true) ∧
    Running forwarded ∧ forwarded.exMem.cond = false ∧ (∃ t, step forwarded = .next t ∧ t.stalled = false) ∧
    (small [] [] []).halt.halted = true := 
  ⟨⟨rfl, rfl⟩, rfl, ⟨_, rfl⟩, ⟨rfl, rfl⟩, rfl, ⟨_, rfl, rfl⟩, ⟨rfl, rfl⟩, rfl, ⟨_, rfl, rfl⟩, rfl⟩
theorem witness_StepAdvancesOrHolds :
    (Running forwarded ∧ forwarded.exMem.cond = false ∧ ∃ t, step forwarded = .next t ∧ t.stalled = false) ∧
    (Running noDivider ∧ noDivider.exMem.cond = false ∧ ∃ t, step noDivider = .next t ∧ t.stalled = true) ∧
    (Running waiting ∧ waiting.exMem.cond = false ∧ ∃ t, step waiting = .next t ∧ t.stalled = true) := 
  ⟨⟨⟨rfl, rfl⟩, rfl, _, rfl, rfl⟩, ⟨⟨rfl, rfl⟩, rfl, _, rfl, rfl⟩, ⟨⟨rfl, rfl⟩, rfl, _, rfl, rfl⟩⟩
theorem witness_StallOnlyForAReason : (Running waiting ∧ waiting.exMem.cond = false ∧ ∃ t, step waiting = .next t) ∧
    (Running noDivider ∧ noDivider.exMem.cond = false ∧ ∃ t, step noDivider = .next t) := 
  ⟨⟨⟨rfl, rfl⟩, rfl, _, rfl⟩, ⟨rfl, rfl⟩, rfl, _, rfl⟩
theorem witness_StagedOperandsAreFinal : Running forwarded ∧ forwarded.exMem.cond = false ∧
    ∃ t, step forwarded = .next t ∧ t.stalled = false := ⟨⟨rfl, rfl⟩, rfl, _, rfl, rfl⟩
theorem witness_TakenBranchFlushes : Running redirecting ∧ redirecting.exMem.cond = true ∧ (∃ t, step redirecting = .next t) ∧
    redirecting.exMem.acc = .none ∧ redirecting.exMem.aluout.toNat + 4 ≤ redirecting.cfg.memSize := ⟨⟨rfl, rfl⟩, rfl, ⟨_, rfl⟩, rfl, by decide⟩

/-- A pending access in `EX_MEM`. -/
def accessing (a : Access) : State :=
  running [] fun s => { s with exMem := { iw := 0x80220008, pc := 4, cond := false, aluout := 0, acc := a } }

theorem witness_MemoryStageServicesAccess :
    (Running (accessing (.read (.r 2) 255 .byte true)) ∧ ∃ t, step (accessing (.read (.r 2) 255 .byte true)) = .next t) ∧
    (Running (accessing (.write 252 .word 9)) ∧ ∃ t, step (accessing (.write 252 .word 9)) = .next t) ∧
    (Running (accessing .none) ∧ ∃ t, step (accessing .none) = .next t) ∧
    (accessing (.read (.r 2) 256 .byte true)).cfg.memSize < (256#32).toNat + Width.byte.bytes ∧
    (accessing (.write 253 .word 9)).cfg.memSize < (253#32).toNat + Width.word.bytes := 
  ⟨⟨⟨rfl, rfl⟩, _, rfl⟩, ⟨⟨rfl, rfl⟩, _, rfl⟩, ⟨⟨rfl, rfl⟩, _, rfl⟩, by decide, by decide⟩

/-- A double and a comparison about to be committed, with a `JAL` word. -/
def committing : State := running [] fun s => { s with
  memWb := { nopMemWb with
    iw := 0x0C000010, pc := 4
    resFadd := some { tag := .cc, value := 1 }, resFmul := some { tag := .fd 2, value := 0x3FF8000000000001 } }
  uf := fileSet (fileSet s.uf 2 true) 3 true, uc := true, ui := fileSet s.ui 31 true }

/-- Every slot is one of the 65. -/
theorem markersExact_of_all {s : State} (h1 : ∀ i : Reg, writersOf s (.r i) = if s.marker (.r i) then 1 else 0)
    (h2 : ∀ i : Reg, writersOf s (.f i) = if s.marker (.f i) then 1 else 0)
    (h3 : writersOf s .cc = if s.marker .cc then 1 else 0) : MarkersExact s := by
  intro sl
  cases sl with
  | r i => exact h1 i
  | f i => exact h2 i
  | cc => exact h3

theorem witness_WritebackCommitsRecords : Running committing ∧ MarkersExact committing ∧ (∃ t, step committing = .next t) ∧
    (pathOfWord committing.memWb.iw).isLink = true := 
  ⟨⟨rfl, rfl⟩, markersExact_of_all (by decide +kernel) (by decide +kernel) (by decide +kernel), ⟨_, rfl⟩, rfl⟩
theorem witness_DispatchTakesFirstIdleUnit :
    pathOfWord 0x04443003 = .unit (.arith .div .single) (.fs 6) (.single 2) (.single 4) ∧
    ([.busy 0 0 (.arith .div .single) 2 (.fs 9), .idle, .idle] : List FuncUnit)[1]? = some .idle ∧
    (∀ j : Nat, j < 1 → ([.busy 0 0 (.arith .div .single) 2 (.fs 9), .idle, .idle] : List FuncUnit)[j]? ≠ some .idle) ∧
    (∀ u ∈ ([.busy 0 0 (.arith .div .single) 2 (.fs 9)] : List FuncUnit), u ≠ .idle) ∧
    executePhase2 noDivider.idEx noDivider = .noUnit := ⟨rfl, rfl, by decide, by decide, rfl⟩
theorem witness_ExecuteFormsAccessAndTarget :
    decodeWord 0x80220008 = some (.lb 2 1 8) ∧ decodeWord 0x9C3E0008 = some (.ld 30 1 8) ∧
    (Instr.ld 30 1 8).wellFormed = true ∧ decodeWord 0xBC220008 = some (.sd 2 1 8) ∧
    decodeWord 0x1420FFF4 = some (.bnez 1 0xFFF4) ∧ decodeWord 0x08000008 = some (.j 8) ∧
    decodeWord 0x0C000010 = some (.jal 16) ∧ classOf 0x44000000 ∈ [.trap, .nop, .unimplemented] := by decide
theorem witness_UnitResultAfterLatency : 1 ≤ 1 ∧ (∀ v t, FuncUnit.idle ≠ .done v t) ∧ FuncUnit.done 0 .cc ≠ .idle := ⟨by decide, fun _ _ h => FuncUnit.noConfusion h, by decide⟩
theorem witness_AtMostOneResultPerClass : machineOk (running [] fun s => { s with aluPool := [.busy 30 12 (.int .add) 1 (.r 1)] }) = true ∧
    (tickPool [.busy 30 12 (.int .add) 1 (.r 1)])[0]? = some (FuncUnit.done 42 (.r 1)) := by decide +kernel
theorem witness_UnloadTakesLowestDone :
    ([.idle, .done 1 .cc, .done 2 .cc] : List FuncUnit)[1]? = some (.done 1 .cc) ∧
    (∀ j : Nat, j < 1 → ∀ v t, ([.idle, .done 1 .cc, .done 2 .cc] : List FuncUnit)[j]? ≠ some (.done v t)) ∧
    ∀ u ∈ ([.idle] : List FuncUnit), ∀ v t, u ≠ .done v t := by
  refine ⟨rfl, ?_, ?_⟩
  · intro j hj v t; interval_cases j; simp
  · simp
theorem witness_FaultsOfAStep :
    step (accessing (.write 253 .word 9)) = .fault (.outOfRangeData 253) ∧
    step ((running [] id).setPc 253) = .fault (.outOfRangeFetch 253) ∧
    (Running { redirecting with exMem := { redirecting.exMem with aluout := 253 } } ∧
      redirecting.cfg.memSize < (253#32).toNat + 4) ∧
    step (running [] fun s => { s with idEx := { nopIdEx with iw := 0x9C3F0008 } }) = .refused .doubleAtSlot31 := ⟨rfl, rfl, ⟨⟨rfl, rfl⟩, by decide⟩, rfl⟩
theorem witness_ConfigurationIsConstant : ∃ t, step forwarded = .next t := ⟨_, rfl⟩

/-- Two instructions in flight: an addition about to be staged with its source in a unit that is done this cycle. -/
def busyOk : State := forwarded

theorem witness_StepKeepsMachineOk : machineOk busyOk = true ∧ ∃ t, step busyOk = .next t ∧ t.idEx.iw = 0x00221820 := ⟨by decide +kernel, _, rfl, rfl⟩
theorem witness_StepKeepsMarkersExact : machineOk busyOk = true ∧ MarkersExact busyOk ∧ DestinationFree busyOk ∧
    ∃ t, step busyOk = .next t := 
  ⟨by decide +kernel, markersExact_of_all (by decide +kernel) (by decide +kernel) (by decide +kernel),
    by unfold DestinationFree; decide +kernel, _, rfl⟩
theorem witness_DrainedRunIsExec : ∃ t, atRest (running [0x04443003] id) = true ∧
    fetchWord (running [0x04443003] id).cfg.memSize (running [0x04443003] id).mem (running [0x04443003] id).pc = some 0x04443003 ∧
    decodeWord 0x04443003 = some (.divf 6 2 4) ∧ exec (.divf 6 2 4) (running [0x04443003] id) = .next t ∧
    nopsFrom (running [0x04443003] id).cfg.memSize (running [0x04443003] id).mem ((running [0x04443003] id).pc + 4)
      (wordsAfter (pathOf (.divf 6 2 4)) (running [0x04443003] id)) ∧
    nopsFrom (running [0x04443003] id).cfg.memSize t.mem ((running [0x04443003] id).pc + 4)
      (wordsAfter (pathOf (.divf 6 2 4)) (running [0x04443003] id)) ∧
    redirects (pathOf (.divf 6 2 4)) (running [0x04443003] id) = false := by
  refine ⟨_, by decide +kernel, by decide +kernel, rfl, rfl, ?_, ?_, by decide +kernel⟩ <;> unfold nopsFrom <;> decide +kernel
theorem witness_DrainedRunIsExec_jump : ∃ t, atRest (running [0x0C000010] id) = true ∧
    fetchWord (running [0x0C000010] id).cfg.memSize (running [0x0C000010] id).mem (running [0x0C000010] id).pc = some 0x0C000010 ∧
    decodeWord 0x0C000010 = some (.jal 16) ∧ exec (.jal 16) (running [0x0C000010] id) = .next t ∧
    nopsFrom (running [0x0C000010] id).cfg.memSize (running [0x0C000010] id).mem ((running [0x0C000010] id).pc + 4)
      (wordsAfter (pathOf (.jal 16)) (running [0x0C000010] id)) ∧
    nopsFrom (running [0x0C000010] id).cfg.memSize t.mem ((running [0x0C000010] id).pc + 4)
      (wordsAfter (pathOf (.jal 16)) (running [0x0C000010] id)) ∧
    redirects (pathOf (.jal 16)) (running [0x0C000010] id) = true ∧ nopsFrom (running [0x0C000010] id).cfg.memSize t.mem t.pc 2 := by
  refine ⟨_, by decide +kernel, by decide +kernel, rfl, rfl, ?_, ?_, by decide +kernel, ?_⟩ <;> unfold nopsFrom <;> decide +kernel
theorem witness_DrainedRunIsExec_store : ∃ t, atRest (running [0xAC220008] id) = true ∧
    fetchWord (running [0xAC220008] id).cfg.memSize (running [0xAC220008] id).mem (running [0xAC220008] id).pc = some 0xAC220008 ∧
    decodeWord 0xAC220008 = some (.sw 2 1 8) ∧ exec (.sw 2 1 8) (running [0xAC220008] id) = .next t ∧
    nopsFrom (running [0xAC220008] id).cfg.memSize (running [0xAC220008] id).mem ((running [0xAC220008] id).pc + 4)
      (wordsAfter (pathOf (.sw 2 1 8)) (running [0xAC220008] id)) ∧
    nopsFrom (running [0xAC220008] id).cfg.memSize t.mem ((running [0xAC220008] id).pc + 4)
      (wordsAfter (pathOf (.sw 2 1 8)) (running [0xAC220008] id)) ∧
    redirects (pathOf (.sw 2 1 8)) (running [0xAC220008] id) = false := by
  refine ⟨_, by decide +kernel, by decide +kernel, rfl, rfl, ?_, ?_, by decide +kernel⟩ <;> unfold nopsFrom <;> decide +kernel
theorem witness_DrainedRunIsExec_trap : ∃ t, atRest (running [0x44000000] id) = true ∧
    fetchWord (running [0x44000000] id).cfg.memSize (running [0x44000000] id).mem (running [0x44000000] id).pc = some 0x44000000 ∧
    decodeWord 0x44000000 = some (.trap) ∧ exec (.trap) (running [0x44000000] id) = .next t ∧
    nopsFrom (running [0x44000000] id).cfg.memSize (running [0x44000000] id).mem ((running [0x44000000] id).pc + 4)
      (wordsAfter (pathOf (.trap)) (running [0x44000000] id)) ∧
    nopsFrom (running [0x44000000] id).cfg.memSize t.mem ((running [0x44000000] id).pc + 4)
      (wordsAfter (pathOf (.trap)) (running [0x44000000] id)) ∧
    redirects (pathOf (.trap)) (running [0x44000000] id) = false := by
  refine ⟨_, by decide +kernel, by decide +kernel, rfl, rfl, ?_, ?_, by decide +kernel⟩ <;> unfold nopsFrom <;> decide +kernel
theorem witness_InterfaceReadsCommittedState : Memory.wf (small [] [] [1, 2]).mem = true := by decide

end Sys2Proof.Tests
end

section
/-! Settles the statements about the pair view of the floating-point slots (R27) and about who writes `PC` (R24). -/

namespace Sys2Proof.Machine

/-! ## Pairs (R27) -/

/-- Below slot 31 the index of the upper slot does not wrap. -/
theorem reg_toNat_add_one {i : Reg} (h : i.toNat ≤ 30) : (i + 1).toNat = i.toNat + 1 := by
  have hlt : i.toNat + 1 < 2 ^ 5 := by omega
  rw [BitVec.toNat_add]
  exact Nat.mod_eq_of_lt hlt

/-- A pair write puts the low half into the lower slot. -/
theorem readF_writeFD_low (s : State) (i : Reg) (v : DWord) : (s.writeFD i v).readF i = lo32 v := by
  simp

/-- A pair write puts the high half into the upper slot. -/
theorem readF_writeFD_high (s : State) (i : Reg) (v : DWord) : (s.writeFD i v).readF (i + 1) = hi32 v := by
  simp

/-- A pair write leaves every slot outside the pair. -/
theorem readF_writeFD_ne (s : State) (v : DWord) {i j : Reg} (hi : j ≠ i) (hi' : j ≠ i + 1) :
    (s.writeFD i v).readF j = s.readF j := by
  rw [readF_writeFD, if_neg hi', if_neg hi]

/-- A pair reads back what was written to it. -/
theorem readFD_writeFD_same (s : State) (i : Reg) (v : DWord) : (s.writeFD i v).readFD i = v := by
  rw [State.readFD, readF_writeFD_high, readF_writeFD_low, hi32_append_lo32]

/-- A single write to the upper slot replaces the high half of the pair and leaves the low half. -/
theorem readFD_writeF_high (s : State) (i : Reg) (w : Word) : (s.writeF (i + 1) w).readFD i = w ++ s.readF i := by
  simp [State.readFD]

/-! ## `PC` in a running machine (R24, R363 to R365) -/

/-- `PC` after the Memory stage: the target of a true condition, else the old `PC`. -/
def fetchBase (s : State) : Word := if s.exMem.cond then s.exMem.aluout else s.pc

/-- Decode and Fetch did their work this cycle: the word at `base` is in `IF_ID` with that address and `PC` is past
it. -/
def FetchedFrom (s t : State) (base : Word) : Prop :=
  t.pc = base + 4 ∧ t.ifId.pc = base ∧ fetchWord s.cfg.memSize t.mem base = some t.ifId.iw

theorem CycleTop.pc_eq_fetchBase {s s2 : State} {w : MemWb} {fresh : List Record} (h : CycleTop s s2 w fresh) :
    s2.pc = fetchBase s := by
  obtain ⟨-, -, -, -, -, -, -, hpc, -⟩ := h.frame
  exact hpc

/-- The end of a cycle without a stall has fetched from the base. -/
theorem CycleTop.fetchedFrom {s s2 s3 : State} {w w' : MemWb} {fresh : List Record} {p : Path} {e : IdEx}
    {x : ExMem} {y : IdEx} {z : IfId} (h : CycleTop s s2 w fresh) (hi : issuePath p e s2 = .taken s3 x)
    (hf : fetchStage s3 = .ok z) : FetchedFrom s (endFetched w' x y z s3) (fetchBase s) := by
  obtain ⟨hcfg, -⟩ := h.frame
  obtain ⟨hcfg', -, -, -, hpc, -⟩ := issuePath_frame hi
  obtain ⟨hword, hz⟩ := fetchStage_eq_ok hf
  have hbase : s3.pc = fetchBase s := hpc.trans h.pc_eq_fetchBase
  rw [hcfg', hcfg, hbase] at hword
  exact ⟨congrArg (· + 4) hbase, hz.trans hbase, hword⟩

/-- A step of a running machine either stalls and leaves `PC` at the base, or fetches from the base. -/
theorem step_stalls_or_fetches {s t : State} (hr : Running s) (h : step s = .next t) :
    (t.stalled = true ∧ t.pc = fetchBase s) ∨ (t.stalled = false ∧ FetchedFrom s t (fetchBase s)) := by
  obtain ⟨hhalted, hfatal⟩ := hr
  rcases step_cases h with ⟨hstop, -⟩ | ⟨-, s2, w, fresh, htop, hcase⟩
  · simp [hhalted, hfatal] at hstop
  · rcases hcase with ⟨-, rfl⟩ | ⟨s3, x, hi, ⟨-, rfl⟩ | ⟨y, z, -, hf, rfl⟩⟩
    · exact .inl ⟨rfl, htop.pc_eq_fetchBase⟩
    · obtain ⟨-, -, -, -, hpc, -⟩ := issuePath_frame hi
      exact .inl ⟨rfl, hpc.trans htop.pc_eq_fetchBase⟩
    · exact .inr ⟨rfl, htop.fetchedFrom hi hf⟩

/-- Under a redirect Execute and Decode work on NOPs, which need no unit and wait for nothing: no stall. -/
theorem step_not_stalled_of_redirect {s t : State} (hr : Running s) (h : step s = .next t)
    (hc : s.exMem.cond = true) : t.stalled = false := by
  obtain ⟨hhalted, hfatal⟩ := hr
  have hexec : pathOfWord (executeInput s).iw = .pass := by simp [executeInput, hc, nopIdEx]
  have hdec : pathOfWord (decodeInput s).iw = .pass := by simp [decodeInput, hc, nopIfId]
  rcases step_cases h with ⟨hstop, -⟩ | ⟨-, s2, w, fresh, -, hcase⟩
  · simp [hhalted, hfatal] at hstop
  · rcases hcase with ⟨hnone, -⟩ | ⟨s3, x, -, ⟨hwait, -⟩ | ⟨y, z, -, -, rfl⟩⟩
    · rw [hexec] at hnone
      cases hnone
    · have hready := decodeStage_eq_none hwait
      rw [hdec, pathReady_pass] at hready
      cases hready
    · rfl

/-- A halted or fatal machine answers the state it is in. -/
theorem step_of_stopped {s : State} (h : s.halted = true ∨ s.fatal = true) : step s = .next s :=
  if_pos (by simpa using h)

/-- A step of a running machine with a true condition fetches from the target. -/
theorem step_pc_of_redirect {s t : State} (hr : Running s) (h : step s = .next t) (hc : s.exMem.cond = true) :
    t.stalled = false ∧ FetchedFrom s t s.exMem.aluout := by
  have hns := step_not_stalled_of_redirect hr h hc
  rcases step_stalls_or_fetches hr h with ⟨hs, -⟩ | ⟨-, hf⟩
  · rw [hns] at hs
    cases hs
  · exact ⟨hns, by simpa [fetchBase, hc] using hf⟩

/-- A step of a running machine with no redirect holds `PC` in a stall and fetches from it otherwise. -/
theorem step_pc_of_no_redirect {s t : State} (hr : Running s) (h : step s = .next t) (hc : s.exMem.cond = false) :
    (t.stalled = true ∧ t.pc = s.pc) ∨ (t.stalled = false ∧ FetchedFrom s t s.pc) := by
  simpa [fetchBase, hc] using step_stalls_or_fetches hr h

end Sys2Proof.Machine

open Sys2Proof Sys2Proof.Machine

/-- Settles O8: each clause is one rule of the pair view. -/
theorem pairOverlaysSlots : Obligations.PairOverlaysSlots := by
  intro s i v w hi
  exact ⟨reg_toNat_add_one hi, rfl, readFD_writeFD_same s i v, readF_writeFD_low s i v, readF_writeFD_high s i v,
    fun j hj hj' => readF_writeFD_ne s v hj hj', readFD_writeF_high s i w⟩

/-- Settles O43, by whether the cycle redirects and whether it stalls. -/
theorem pcWriters : Obligations.PcWriters := by
  refine ⟨fun s t hr h => ⟨fun hc => step_pc_of_redirect hr h hc, fun hc => ?_⟩,
    fun s hstop => ⟨s, step_of_stopped hstop, rfl⟩, fun _ _ _ => rfl, fun _ _ => rfl⟩
  rcases step_pc_of_no_redirect hr h hc with ⟨hs, hpc⟩ | ⟨hs, hpc, hif, hword⟩
  · simp [hs, hpc]
  · simp [hs, hpc, hif, hword]

end

section
/-! Settles the statements about the typed accesses of memory: MemRead (R63), MemWrite (R64) and the double as two
words (R62). -/

namespace Sys2Proof.Machine

/-! ## The number a little-endian read gives (R61, R63) -/

/-- The recursion of `readLE` is the sum of R63. -/
theorem readLE_eq_sum (m : Memory) (a n : Nat) :
    readLE m a n = ∑ k ∈ Finset.range n, (readByte m (a + k)).toNat * 2 ^ (8 * k) := by
  induction n generalizing a with
  | zero => rfl
  | succ n ih =>
    have hshift (k : Nat) : (readByte m (a + (k + 1))).toNat * 2 ^ (8 * (k + 1)) =
        256 * ((readByte m (a + 1 + k)).toNat * 2 ^ (8 * k)) := by
      rw [show a + (k + 1) = a + 1 + k by omega, show 8 * (k + 1) = 8 * k + 8 by omega, pow_add]
      ring
    rw [Finset.sum_range_succ', Finset.sum_congr rfl fun k _ => hshift k, ← Finset.mul_sum, ← ih, readLE]
    simp [Nat.add_comm]

/-- A read of `n` bytes fits in `8n` bits. -/
theorem readLE_lt_two_pow (m : Memory) (a n : Nat) : readLE m a n < 2 ^ (8 * n) := by
  rw [pow_mul]
  exact readLE_lt m a n

/-- A read of `j + k` bytes is the read of the `k` upper ones above the read of the `j` lower ones. -/
theorem readLE_add (m : Memory) (a j k : Nat) :
    readLE m a (j + k) = readLE m a j + 2 ^ (8 * j) * readLE m (a + j) k := by
  simp only [readLE_eq_sum, Finset.sum_range_add, Finset.mul_sum, Nat.mul_add, pow_add, Nat.add_assoc]
  congr 1
  exact Finset.sum_congr rfl fun i _ => by ring

/-- The low `8j` bits of a longer read. -/
theorem readLE_add_mod (m : Memory) (a j k : Nat) : readLE m a (j + k) % 2 ^ (8 * j) = readLE m a j := by
  rw [readLE_add, Nat.add_mul_mod_self_left, Nat.mod_eq_of_lt (readLE_lt_two_pow m a j)]

/-- What a longer read has above its low `8j` bits. -/
theorem readLE_add_div (m : Memory) (a j k : Nat) : readLE m a (j + k) / 2 ^ (8 * j) = readLE m (a + j) k := by
  rw [readLE_add, Nat.add_mul_div_left _ _ (Nat.two_pow_pos _), Nat.div_eq_of_lt (readLE_lt_two_pow m a j),
    Nat.zero_add]

/-- Digit `k` of a read, to base 256, is its byte `k`. -/
theorem readLE_div_mod (m : Memory) (a : Nat) {k n : Nat} (hk : k < n) :
    readLE m a n / 2 ^ (8 * k) % 256 = (readByte m (a + k)).toNat := by
  obtain ⟨r, rfl⟩ : ∃ r, n = k + (r + 1) := ⟨n - k - 1, by omega⟩
  rw [readLE_add_div, readLE, Nat.add_mul_mod_self_left, Nat.mod_eq_of_lt (readByte m (a + k)).isLt]

/-- Bits `8k+7..8k` of a read that fits its pattern are byte `k`. -/
theorem extractLsb'_readLE (m : Memory) (a : Nat) {w k n : Nat} (hw : 8 * n ≤ w) (hk : k < n) :
    (BitVec.ofNat w (readLE m a n)).extractLsb' (8 * k) 8 = readByte m (a + k) := by
  have hlt : readLE m a n < 2 ^ w := (readLE_lt_two_pow m a n).trans_le (Nat.pow_le_pow_right (by decide) hw)
  apply BitVec.eq_of_toNat_eq
  rw [BitVec.extractLsb'_toNat, BitVec.toNat_ofNat, Nat.mod_eq_of_lt hlt, Nat.shiftRight_eq_div_pow]
  exact readLE_div_mod m a hk

/-! ## Writes (R64) -/

/-- Bits `8k+7..8k` of a pattern, as the digit to base 256. -/
theorem extractLsb'_byte {w : Nat} (v : BitVec w) (k : Nat) :
    v.extractLsb' (8 * k) 8 = BitVec.ofNat 8 (v.toNat / 256 ^ k) := by
  apply BitVec.eq_of_toNat_eq
  rw [BitVec.extractLsb'_toNat, Nat.shiftRight_eq_div_pow, pow_mul, BitVec.toNat_ofNat]
  rfl

/-- Reading the place of a write gives the low bytes of the value. -/
theorem readLE_writeLE_same (m : Memory) (a n v : Nat) (h : Memory.wf m = true) :
    readLE (writeLE m a n v) a n = v % 2 ^ (8 * n) := by
  induction n generalizing m a v with
  | zero => simp [readLE, Nat.mod_one]
  | succ n ih =>
    have hlow : (readByte (writeLE m a (n + 1) v) a).toNat = v % 256 := by
      simpa using congrArg BitVec.toNat (readByte_writeLE_inside m a (n + 1) v 0 h n.succ_pos)
    have hhigh : readLE (writeLE m a (n + 1) v) (a + 1) n = v / 256 % 2 ^ (8 * n) :=
      ih (writeByte m a (BitVec.ofNat 8 v)) (a + 1) (v / 256) (wf_writeByte _ _ _ h)
    rw [readLE, hlow, hhigh, show 8 * (n + 1) = 8 + 8 * n by omega, pow_add]
    exact (Nat.mod_mul ..).symm

/-- The payload of a store is the low `8n` bits of the data. -/
theorem cutStore_eq_ofNat_mod (n : Width) (v : DWord) :
    cutStore n v = BitVec.ofNat 64 (v.toNat % 2 ^ (8 * n.bytes)) := by
  have hv : v.toNat % 2 ^ 64 = v.toNat := Nat.mod_eq_of_lt v.isLt
  apply BitVec.eq_of_toNat_eq
  cases n with
  | double => simpa [cutStore, Width.bytes] using hv.symm
  | _ => simp [cutStore, Width.bytes]

/-- Reading the place of a write in range gives the payload of a store of that width. -/
theorem memRead_memWrite_same {memSize : Nat} {m m' : Memory} {addr : Word} {n : Width} {v : DWord}
    (h : Memory.wf m = true) (hr : addr.toNat + n.bytes ≤ memSize) (hw : memWrite memSize m addr n v = some m') :
    memRead memSize m' addr n = some (cutStore n v) := by
  rw [memWrite_of_inRange hr] at hw
  cases hw
  rw [memRead_of_inRange hr, readLE_writeLE_same _ _ _ _ h, cutStore_eq_ofNat_mod]

/-! ## The double as two words (R62) -/

/-- The low half of a double is the word at its address. -/
theorem wide_lo32_readLE (m : Memory) (a : Nat) :
    wide (lo32 (BitVec.ofNat 64 (readLE m a 8))) = BitVec.ofNat 64 (readLE m a 4) := by
  have hlow : readLE m a 8 % 2 ^ 32 = readLE m a 4 := readLE_add_mod m a 4 4
  have h4 := readLE_lt_two_pow m a 4
  apply BitVec.eq_of_toNat_eq
  simp only [wide, lo32, BitVec.toNat_setWidth, BitVec.toNat_ofNat]
  omega

/-- The high half of a double is the word four bytes on. -/
theorem wide_hi32_readLE (m : Memory) (a : Nat) :
    wide (hi32 (BitVec.ofNat 64 (readLE m a 8))) = BitVec.ofNat 64 (readLE m (a + 4) 4) := by
  have hhigh : readLE m a 8 / 2 ^ 32 = readLE m (a + 4) 4 := readLE_add_div m a 4 4
  have h8 := readLE_lt_two_pow m a 8
  have h4 := readLE_lt_two_pow m (a + 4) 4
  apply BitVec.eq_of_toNat_eq
  simp only [wide, hi32, BitVec.toNat_setWidth, BitVec.extractLsb'_toNat, BitVec.toNat_ofNat,
    Nat.shiftRight_eq_div_pow]
  omega

/-- Where a double is in range of a memory of at most 2^32 bytes, the address of its upper word does not wrap. -/
theorem toNat_add_four {memSize : Nat} {a : Word} (hsize : memSize ≤ 2 ^ 32) (hr : a.toNat + 8 ≤ memSize) :
    (a + 4).toNat = a.toNat + 4 := by
  have hlt : a.toNat + 4 < 2 ^ 32 := by omega
  rw [BitVec.toNat_add]
  exact Nat.mod_eq_of_lt hlt

end Sys2Proof.Machine

open Sys2Proof Sys2Proof.Machine

/-- Settles O5: the read is a fold over its bytes, and the fold is the sum. -/
theorem memReadIsLittleEndianSum : Obligations.MemReadIsLittleEndianSum := by
  intro memSize m addr n
  rw [← readLE_eq_sum]
  refine ⟨fun hr => ⟨memRead_of_inRange hr, readLE_lt_two_pow ..⟩, (memRead_eq_none_iff ..).2, ?_⟩
  cases n <;> decide

/-- Settles O6: each clause is one rule of the little-endian write. -/
theorem memWriteWritesItsBytes : Obligations.MemWriteWritesItsBytes := by
  intro memSize m addr n v hwf
  refine ⟨(memWrite_eq_none_iff ..).2, fun hr => ?_⟩
  have hw := memWrite_of_inRange (m := m) (v := v) hr
  refine ⟨_, hw, wf_memWrite hw hwf, fun k hk => ?_, fun x hx => readByte_writeLE_outside _ _ _ _ _ hwf hx,
    memRead_memWrite_same hwf hr hw⟩
  rw [readByte_writeLE_inside _ _ _ _ _ hwf hk, extractLsb'_byte]

/-- Settles O7: the words are the halves of the double, and the pair rules of R27 place them in the slots. -/
theorem doubleIsTwoWords : Obligations.DoubleIsTwoWords := by
  intro memSize m a hsize hr
  have ha4 := toNat_add_four hsize hr
  have hlow : memRead memSize m a .word = _ := memRead_of_inRange (by simp only [Width.bytes]; omega)
  have hhigh : memRead memSize m (a + 4) .word = _ := memRead_of_inRange (by simp only [Width.bytes]; omega)
  have hdouble : memRead memSize m a .double = _ := memRead_of_inRange hr
  refine ⟨lo32 (BitVec.ofNat 64 (readLE m a.toNat 8)), hi32 (BitVec.ofNat 64 (readLE m a.toNat 8)), ?_, ?_, ?_⟩
  · rw [hlow, wide_lo32_readLE, Width.bytes]
  · rw [hhigh, wide_hi32_readLE, ha4, Width.bytes]
  · rw [hi32_append_lo32]
    exact ⟨hdouble, fun k hk => (extractLsb'_readLE m _ (by decide) hk).symm, fun s i =>
      ⟨readFD_writeFD_same s i _, readF_writeFD_low s i _, readF_writeFD_high s i _⟩⟩

end

section
/-! Settles the statements about the integer instructions of 40_integer_alu.md: addition, subtraction and logic, shifts
by an immediate, and the signed sets, in their register and immediate forms. -/

namespace Sys2Proof.Machine

/-! ## Rows (R100, R101) -/

/-- A function code under opcode 0 that `decodeFunct0` reads as an instruction of the Register fields has its row. -/
theorem rowR_zero_of_decodeFunct0 {funct : BitVec 6} {mk : Reg → Reg → Reg → Instr}
    (h : ∀ w, fieldFunct w = funct → decodeFunct0 w = some (mk (fieldRdR w) (fieldRs1 w) (fieldRs2 w))) :
    RowR 0x00 funct mk := by
  intro w hop hfunct
  have hzero : decodeWord w = decodeFunct0 w := by simp [decodeWord, decodeOpcode, hop]
  exact hzero.trans (h w hfunct)

/-! ## Through an ALU unit (R130) -/

/-- An instruction that goes through an ALU unit completes and gives `R[rd]` what the operation computes. -/
theorem writesReg_of_through {i : Instr} {o : AluOp} {rd : Reg} {a b : Source}
    (h : Through i (.int o) (.r rd) a b) (s : State) :
    WritesReg i s rd (computeInt o (lo32 (a.value s.readSlot)) (lo32 (b.value s.readSlot))) := by
  rw [WritesReg, exec_eq_runAlone, h, runAlone, compute, State.writeTag, lo32_wide]

/-- The register form: both operands are registers. -/
theorem writesReg_of_regs {i : Instr} {o : AluOp} {rd rs1 rs2 : Reg} {s : State} {v : Word}
    (h : Through i (.int o) (.r rd) (.reg rs1) (.reg rs2))
    (hv : computeInt o (s.readReg rs1) (s.readReg rs2) = v) : WritesReg i s rd v := by
  simpa only [Source.value, State.readSlot, lo32_wide, hv] using writesReg_of_through h s

/-- The immediate form: the second operand is a constant. -/
theorem writesReg_of_const {i : Instr} {o : AluOp} {rd rs1 : Reg} {c : Word} {s : State} {v : Word}
    (h : Through i (.int o) (.r rd) (.reg rs1) (.const c))
    (hv : computeInt o (s.readReg rs1) c = v) : WritesReg i s rd v := by
  simpa only [Source.value, State.readSlot, lo32_wide, hv] using writesReg_of_through h s

/-! ## Immediates (R95, R96) -/

/-- Sign extension keeps the signed value. -/
theorem toInt_sext16 (imm : BitVec 16) : (sext16 imm).toInt = imm.toInt :=
  BitVec.toInt_signExtend_of_le (by decide)

/-- Zero extension keeps every bit and has zeros above. -/
theorem getLsbD_zext16 (imm : BitVec 16) (k : Nat) : (zext16 imm).getLsbD k = imm.getLsbD k := by
  rw [zext16, BitVec.getLsbD_setWidth]
  by_cases hk : k < 32
  · simp [hk]
  · simp [hk, imm.getLsbD_of_ge k (by omega)]

/-- The shift amount of a zero-extended immediate is its low five bits (R158). -/
theorem shiftAmount_zext16 (imm : BitVec 16) : shiftAmount (zext16 imm) = (imm.extractLsb' 0 5).toNat := by
  have himm := imm.isLt
  simp only [shiftAmount, zext16, BitVec.toNat_setWidth, BitVec.extractLsb'_toNat, Nat.shiftRight_zero]
  omega

/-! ## What the operations compute (R300)

The second operand enters by how it is read, as a number or as a shift amount, so that one equation serves the register
form and the immediate form. -/

/-- A word is the pattern of its unsigned reading. -/
theorem ofInt_toNat (a : Word) : BitVec.ofInt 32 a.toNat = a := by
  rw [BitVec.ofInt_natCast, BitVec.ofNat_toNat, BitVec.setWidth_eq]

/-- A sign-extended immediate is the pattern of its signed reading. -/
theorem ofInt_sext16 (imm : BitVec 16) : BitVec.ofInt 32 imm.toInt = sext16 imm := by
  rw [← toInt_sext16, BitVec.ofInt_toInt]

theorem computeInt_add {a b : Word} {y : Int} (hb : BitVec.ofInt 32 y = b) :
    computeInt .add a b = BitVec.ofInt 32 (a.toNat + y) := by
  rw [BitVec.ofInt_add, ofInt_toNat, hb, computeInt]

theorem computeInt_sub {a b : Word} {y : Int} (hb : BitVec.ofInt 32 y = b) :
    computeInt .sub a b = BitVec.ofInt 32 (a.toNat - y) := by
  rw [Int.sub_eq_add_neg, BitVec.ofInt_add, BitVec.ofInt_neg, ofInt_toNat, hb, ← BitVec.sub_eq_add_neg, computeInt]

theorem computeInt_add_toNat (a b : Word) : computeInt .add a b = BitVec.ofNat 32 (a.toNat + b.toNat) := by
  rw [computeInt_add (ofInt_toNat b), ← Int.natCast_add, BitVec.ofInt_natCast]

theorem computeInt_sll {a b : Word} {n : Nat} (hn : shiftAmount b = n) :
    computeInt .sll a b = BitVec.ofNat 32 (a.toNat * 2 ^ n) := by
  apply BitVec.eq_of_toNat_eq
  rw [computeInt, hn, BitVec.toNat_shiftLeft, Nat.shiftLeft_eq, BitVec.toNat_ofNat]

theorem computeInt_srl {a b : Word} {n : Nat} (hn : shiftAmount b = n) :
    computeInt .srl a b = BitVec.ofNat 32 (a.toNat / 2 ^ n) := by
  have hlt : a.toNat / 2 ^ n < 2 ^ 32 := (Nat.div_le_self ..).trans_lt a.isLt
  apply BitVec.eq_of_toNat_eq
  rw [computeInt, hn, BitVec.toNat_ushiftRight, Nat.shiftRight_eq_div_pow, BitVec.toNat_ofNat, Nat.mod_eq_of_lt hlt]

theorem computeInt_sra {a b : Word} {n : Nat} (hn : shiftAmount b = n) :
    computeInt .sra a b = BitVec.ofInt 32 (a.toInt / 2 ^ n) := by
  rw [computeInt, hn, BitVec.sshiftRight, Int.shiftRight_eq_div_pow, Int.natCast_pow, Int.cast_ofNat_Int]

/-- The 32-bit value 1 or 0 of a comparison. -/
theorem bit32_decide (p : Prop) [Decidable p] : bit32 (decide p) = if p then 1 else 0 := by
  by_cases hp : p <;> simp [bit32, hp]

theorem computeInt_seq {a b : Word} {y : Int} (hb : b.toInt = y) :
    computeInt .seq a b = if a.toInt = y then 1 else 0 := by
  simp only [computeInt, bit32_decide, ← hb, BitVec.toInt_inj]

theorem computeInt_sne {a b : Word} {y : Int} (hb : b.toInt = y) :
    computeInt .sne a b = if a.toInt ≠ y then 1 else 0 := by
  simp only [computeInt, bit32_decide, ← hb, ne_eq, BitVec.toInt_inj]

theorem computeInt_slt {a b : Word} {y : Int} (hb : b.toInt = y) :
    computeInt .slt a b = if a.toInt < y then 1 else 0 := by
  rw [computeInt, bit32_decide, hb]

theorem computeInt_sgt {a b : Word} {y : Int} (hb : b.toInt = y) :
    computeInt .sgt a b = if a.toInt > y then 1 else 0 := by
  rw [computeInt, bit32_decide, hb]

theorem computeInt_sle {a b : Word} {y : Int} (hb : b.toInt = y) :
    computeInt .sle a b = if a.toInt ≤ y then 1 else 0 := by
  rw [computeInt, bit32_decide, hb]

theorem computeInt_sge {a b : Word} {y : Int} (hb : b.toInt = y) :
    computeInt .sge a b = if a.toInt ≥ y then 1 else 0 := by
  rw [computeInt, bit32_decide, hb]

/-! ## The bits of the logic operations -/

theorem getLsbD_computeInt_and (a b : Word) (k : Nat) :
    (computeInt .and a b).getLsbD k = (a.getLsbD k && b.getLsbD k) := BitVec.getLsbD_and

theorem getLsbD_computeInt_or (a b : Word) (k : Nat) :
    (computeInt .or a b).getLsbD k = (a.getLsbD k || b.getLsbD k) := BitVec.getLsbD_or

theorem getLsbD_computeInt_xor (a b : Word) (k : Nat) :
    (computeInt .xor a b).getLsbD k = (a.getLsbD k ^^ b.getLsbD k) := BitVec.getLsbD_xor

end Sys2Proof.Machine

open Sys2Proof Sys2Proof.Machine

/-- Settles O10: the ALU's sum and difference are those of the unsigned readings, and its logic works on each bit. -/
theorem integerAddSubtractLogic : Obligations.IntegerAddSubtractLogic := by
  refine ⟨?_, ?_, ?_, ?_, ?_, ?values⟩
  case values =>
    intro rd rs1 rs2 s
    exact ⟨writesReg_of_regs rfl (computeInt_add_toNat ..), writesReg_of_regs rfl (computeInt_sub (ofInt_toNat _)),
      ⟨_, writesReg_of_regs rfl rfl, getLsbD_computeInt_and _ _⟩,
      ⟨_, writesReg_of_regs rfl rfl, getLsbD_computeInt_or _ _⟩,
      ⟨_, writesReg_of_regs rfl rfl, getLsbD_computeInt_xor _ _⟩, rfl, rfl, rfl, rfl, rfl⟩
  all_goals exact rowR_zero_of_decodeFunct0 fun w hfunct => by simp [decodeFunct0, hfunct]

/-- Settles O13: both operands are read as signed numbers. -/
theorem integerSets : Obligations.IntegerSets := by
  refine ⟨?_, ?_, ?_, ?_, ?_, ?_, ?values⟩
  case values =>
    intro rd rs1 rs2 s
    exact ⟨writesReg_of_regs rfl (computeInt_seq rfl), writesReg_of_regs rfl (computeInt_sne rfl),
      writesReg_of_regs rfl (computeInt_slt rfl), writesReg_of_regs rfl (computeInt_sgt rfl),
      writesReg_of_regs rfl (computeInt_sle rfl), writesReg_of_regs rfl (computeInt_sge rfl),
      rfl, rfl, rfl, rfl, rfl, rfl⟩
  all_goals exact rowR_zero_of_decodeFunct0 fun w hfunct => by simp [decodeFunct0, hfunct]

/-- Settles O14: sign extension keeps the number for the sum and the difference, zero extension the bits for the
logic. -/
theorem immediateArithmeticLogic : Obligations.ImmediateArithmeticLogic := by
  refine ⟨?_, ?_, ?_, ?_, ?_, ?values⟩
  case values =>
    intro rd rs1 imm s
    exact ⟨writesReg_of_const rfl (computeInt_add (ofInt_sext16 imm)),
      writesReg_of_const rfl (computeInt_sub (ofInt_sext16 imm)),
      ⟨_, writesReg_of_const rfl rfl, fun k => by rw [getLsbD_computeInt_and, getLsbD_zext16]⟩,
      ⟨_, writesReg_of_const rfl rfl, fun k => by rw [getLsbD_computeInt_or, getLsbD_zext16]⟩,
      ⟨_, writesReg_of_const rfl rfl, fun k => by rw [getLsbD_computeInt_xor, getLsbD_zext16]⟩,
      rfl, rfl, rfl, rfl, rfl⟩
  all_goals exact fun w hop => by simp [decodeWord, decodeOpcode, hop]

/-- Settles O16: the shift amount of the extended immediate is its low five bits. -/
theorem immediateShifts : Obligations.ImmediateShifts := by
  refine ⟨?_, ?_, ?_, ?values⟩
  case values =>
    intro rd rs1 imm s
    have hn := shiftAmount_zext16 imm
    exact ⟨writesReg_of_const rfl (computeInt_sll hn), writesReg_of_const rfl (computeInt_srl hn),
      writesReg_of_const rfl (computeInt_sra hn), rfl, rfl, rfl⟩
  all_goals exact fun w hop => by simp [decodeWord, decodeOpcode, hop]

/-- Settles O17: sign extension keeps the number the register is compared with. -/
theorem immediateSets : Obligations.ImmediateSets := by
  refine ⟨?_, ?_, ?_, ?_, ?_, ?_, ?values⟩
  case values =>
    intro rd rs1 imm s
    have himm := toInt_sext16 imm
    exact ⟨writesReg_of_const rfl (computeInt_seq himm), writesReg_of_const rfl (computeInt_sne himm),
      writesReg_of_const rfl (computeInt_slt himm), writesReg_of_const rfl (computeInt_sgt himm),
      writesReg_of_const rfl (computeInt_sle himm), writesReg_of_const rfl (computeInt_sge himm),
      rfl, rfl, rfl, rfl, rfl, rfl⟩
  all_goals exact fun w hop => by simp [decodeWord, decodeOpcode, hop]

end

section
/-! Settles the statement about the stores of 42_load_store.md: SB, SH, SW, SF and SD. -/

namespace Sys2Proof.Machine

/-! ## What a store and a load do alone (R222 to R224) -/

/-- A store whose write is in range changes memory by it and `PC` alone. -/
theorem exec_store_of_memWrite {i : Instr} {base : Reg} {disp : BitVec 16} {n : Width} {data : Source} {s : State}
    {m : Memory} (hp : pathOf i = .store base disp n data)
    (hw : memWrite s.cfg.memSize s.mem (effAddr (s.readReg base) disp) n (cutStore n (data.value s.readSlot)) =
      some m) : exec i s = .next { s with mem := m, pc := s.pc + 4 } := by
  simp only [exec_eq_runAlone, hp, runAlone, hw]
  rfl

/-- A store that reaches past the end of memory faults, and there is no next state (R66). -/
theorem exec_store_of_outOfRange {i : Instr} {base : Reg} {disp : BitVec 16} {n : Width} {data : Source} {s : State}
    (hp : pathOf i = .store base disp n data)
    (hr : s.cfg.memSize < (effAddr (s.readReg base) disp).toNat + n.bytes) :
    exec i s = .fault (.outOfRangeData (effAddr (s.readReg base) disp)) := by
  simp only [exec_eq_runAlone, hp, runAlone, (memWrite_eq_none_iff ..).2 hr]

/-- A load whose read is in range writes the extended value to its destination. -/
theorem exec_load_of_memRead {i : Instr} {dst : Tag} {base : Reg} {disp : BitVec 16} {n : Width} {signed : Bool}
    {s : State} {v : DWord} (hp : pathOf i = .load dst base disp n signed)
    (hm : memRead s.cfg.memSize s.mem (effAddr (s.readReg base) disp) n = some v) :
    exec i s = .next (s.writeTag dst (extendLoad n signed v)).advance := by
  simp only [exec_eq_runAlone, hp, runAlone, hm]

/-! ## The bytes of a store (R64, R223) -/

/-- Cutting the data to the width keeps the bytes that are written: each of their bits lies below the cut. -/
theorem extractLsb'_cutStore {n : Width} (v : DWord) {k : Nat} (hk : k < n.bytes) :
    (cutStore n v).extractLsb' (8 * k) 8 = v.extractLsb' (8 * k) 8 := by
  apply BitVec.eq_of_getLsbD_eq
  intro j hj
  have hlt : 8 * k + j < 8 * n.bytes := by omega
  simp only [BitVec.getLsbD_extractLsb', hj]
  cases n with
  | double => rfl
  | _ =>
    simp only [Width.bytes] at hlt
    have h64 : 8 * k + j < 64 := by omega
    simp [cutStore, hlt, h64]

/-- An instruction on a store's path, in range, stores the bytes of its data at the effective address. -/
theorem stores_of_pathOf {i : Instr} {base : Reg} {disp : BitVec 16} {n : Width} {data : Source} {s : State}
    (hp : pathOf i = .store base disp n data) (hwf : Memory.wf s.mem = true)
    (hr : (effAddr (s.readReg base) disp).toNat + n.bytes ≤ s.cfg.memSize) :
    Stores i s (effAddr (s.readReg base) disp).toNat n.bytes (data.value s.readSlot) := by
  refine ⟨_, exec_store_of_memWrite hp (memWrite_of_inRange hr), wf_writeLE _ _ _ _ hwf, fun k hk => ?_,
    fun a ha => readByte_writeLE_outside _ _ _ _ _ hwf ha⟩
  rw [readByte_writeLE_inside _ _ _ _ _ hwf hk, ← extractLsb'_byte, extractLsb'_cutStore _ hk]

/-! ## The double (R28, R231, R239) -/

theorem pathOf_sd {rd : Reg} (rs1 : Reg) (imm : BitVec 16) (h : rd ≠ 31) :
    pathOf (.sd rd rs1 imm) = .store rs1 imm .double (.pair rd) :=
  onPairs_of_ok _ (by simpa [pairOk] using h)

theorem pathOf_ld {rd : Reg} (rs1 : Reg) (imm : BitVec 16) (h : rd ≠ 31) :
    pathOf (.ld rd rs1 imm) = .load (.fd rd) rs1 imm .double false :=
  onPairs_of_ok _ (by simpa [pairOk] using h)

/-- The ill-formed instructions are those whose path is refused (R28). -/
theorem exec_of_not_wellFormed {i : Instr} (h : i.wellFormed = false) (s : State) :
    exec i s = .refused .doubleAtSlot31 := by
  rw [exec_eq_runAlone, (pathOf_eq_slot31_iff i).2 h, runAlone]

/-- A pair stored and loaded back is the same pair: SD leaves the base register, so LD reads the place SD wrote. -/
theorem exec_ld_after_sd {rd fd rs1 : Reg} {imm : BitVec 16} {s : State} (hwf : Memory.wf s.mem = true)
    (hrd : rd ≠ 31) (hfd : fd ≠ 31) (hr : (effAddr (s.readReg rs1) imm).toNat + 8 ≤ s.cfg.memSize) :
    ∃ t u, exec (.sd rd rs1 imm) s = .next t ∧ exec (.ld fd rs1 imm) t = .next u ∧ u.readFD fd = s.readFD rd := by
  have hw : memWrite s.cfg.memSize s.mem (effAddr (s.readReg rs1) imm) .double (s.readFD rd) = some _ :=
    memWrite_of_inRange hr
  have hback : memRead s.cfg.memSize _ (effAddr (s.readReg rs1) imm) .double = some (s.readFD rd) :=
    memRead_memWrite_same hwf hr hw
  exact ⟨_, _, exec_store_of_memWrite (pathOf_sd rs1 imm hrd) hw, exec_load_of_memRead (pathOf_ld rs1 imm hfd) hback,
    readFD_writeFD_same _ fd _⟩

/-! ## The descriptor of SB (R221, R235) -/

/-- The effective address is the pattern of the base plus the signed displacement. -/
theorem effAddr_eq_ofInt (base : Word) (imm : BitVec 16) :
    effAddr base imm = BitVec.ofInt 32 (base.toNat + imm.toInt) := by
  rw [effAddr, BitVec.ofInt_add, ofInt_toNat, ofInt_sext16]

/-- The payload of a byte store is bits 7 to 0 of the data. -/
theorem cutStore_byte (v : DWord) : cutStore .byte v = (v.extractLsb' 0 8).setWidth 64 := rfl

/-- Execute leaves for `SB` the write of the low byte of the staged data. -/
theorem executePhase2_sb {e : IdEx} {rd rs1 : Reg} {imm : BitVec 16} (h : decodeWord e.iw = some (.sb rd rs1 imm))
    (s : State) : executePhase2 e s = .taken s { plainExMem e with
      acc := .write (effAddr (lo32 e.a) imm) .byte ((e.b.extractLsb' 0 8).setWidth 64) } := by
  rw [executePhase2, pathOfWord_of_decodeWord h, ← cutStore_byte]
  rfl

end Sys2Proof.Machine

open Sys2Proof Sys2Proof.Machine

/-- Settles O30: each store is the store of its path, in range or out of it. -/
theorem storesWriteTheirBytes : Obligations.StoresWriteTheirBytes := by
  refine ⟨?_, ?_, ?_, ?_, ?_, ?effects⟩
  case effects =>
    intro rd rs1 imm s hwf
    refine ⟨stores_of_pathOf (n := .byte) (data := .reg rd) rfl hwf,
      stores_of_pathOf (n := .half) (data := .reg rd) rfl hwf,
      fun hr => ⟨stores_of_pathOf (n := .word) (data := .reg rd) rfl hwf hr,
        stores_of_pathOf (n := .word) (data := .single rd) rfl hwf hr⟩,
      fun hrd => stores_of_pathOf (pathOf_sd rs1 imm hrd) hwf, ?slot31,
      fun hrd => exec_store_of_outOfRange (pathOf_sd rs1 imm hrd),
      fun hrd hr fd hfd => exec_ld_after_sd hwf hrd hfd hr,
      fun e he => ⟨_, executePhase2_sb he s, by rw [← effAddr_eq_ofInt]⟩⟩
    case slot31 =>
      rintro rfl
      exact exec_of_not_wellFormed rfl s
  all_goals exact fun w hop => by rw [decodeWord, decodeOpcode, hop]; rfl

end

section
/-! Settles the statement about the access the Memory stage performs (46_pipeline_engine.md, R325). -/

namespace Sys2Proof.Machine

/-! ## The record value of a narrow load (R325) -/

/-- A byte load extends bits 7 to 0 of what was read. -/
theorem extendLoad_byte (sg : Bool) (v : DWord) : extendLoad .byte sg v =
    wide (if sg then (v.extractLsb' 0 8).signExtend 32 else (v.extractLsb' 0 8).setWidth 32) := by
  rw [extendLoad, BitVec.setWidth_eq_extractLsb' (by decide)]

/-- A halfword load extends bits 15 to 0 of what was read. -/
theorem extendLoad_half (sg : Bool) (v : DWord) : extendLoad .half sg v =
    wide (if sg then (v.extractLsb' 0 16).signExtend 32 else (v.extractLsb' 0 16).setWidth 32) := by
  rw [extendLoad, BitVec.setWidth_eq_extractLsb' (by decide)]

/-! ## The Memory stage within the cycle (R325, R370) -/

/-- No stage after the Memory stage writes memory, and `MEM_WB` takes the load record as the stage answered it. -/
theorem CycleTop.memoryStage_result {s s2 : State} {w : MemWb} {fresh : List Record} (h : CycleTop s s2 w fresh) :
    ∃ s1, memoryStage s = .ok (s1, w.lmd) ∧ s2.mem = s1.mem := by
  obtain ⟨s1, lmd, hm, rfl, rfl, -⟩ := h.ex
  exact ⟨s1, hm, by simp⟩

/-- A step of a running machine ends with the memory and the load record of its Memory stage, stalled or not. -/
theorem step_memoryStage_result {s t : State} (hr : Running s) (h : step s = .next t) :
    ∃ s1, memoryStage s = .ok (s1, t.memWb.lmd) ∧ t.mem = s1.mem := by
  obtain ⟨hhalted, hfatal⟩ := hr
  rcases step_cases h with ⟨hstop, -⟩ | ⟨-, s2, w, fresh, htop, hcase⟩
  · simp [hhalted, hfatal] at hstop
  · obtain ⟨s1, hm, hmem⟩ := htop.memoryStage_result
    rcases hcase with ⟨-, rfl⟩ | ⟨s3, x, hi, hcase⟩
    · exact ⟨s1, hm, hmem⟩
    · obtain ⟨-, -, -, -, -, hmem3, -⟩ := issuePath_frame hi
      rcases hcase with ⟨-, rfl⟩ | ⟨y, z, -, -, rfl⟩ <;> exact ⟨s1, hm, hmem3.trans hmem⟩

/-- A running machine whose Memory stage faults ends its step in that fault. -/
theorem step_of_memoryStage_error {s : State} {f : Fault} (hr : Running s) (h : memoryStage s = .error f) :
    step s = .fault f := by
  obtain ⟨hhalted, hfatal⟩ := hr
  simp [step, cycle, runningCycle, hhalted, hfatal, h]

/-! ## The outcome of a step for each pending access (R325, R66) -/

/-- A pending write is made as MemWrite and leaves no load record. -/
theorem step_of_pending_write {s t : State} {addr : Word} {n : Width} {payload : DWord} (hr : Running s)
    (h : step s = .next t) (ha : s.exMem.acc = .write addr n payload) :
    memWrite s.cfg.memSize s.mem addr n payload = some t.mem ∧ t.memWb.lmd = none := by
  obtain ⟨s1, hm, hmem⟩ := step_memoryStage_result hr h
  rcases memoryStage_eq_ok hm with ⟨e, -⟩ | ⟨_, _, _, _, _, e, -⟩ | ⟨_, _, _, m, e, hw, rfl, hlmd⟩
  · simp [ha] at e
  · simp [ha] at e
  · obtain ⟨rfl, rfl, rfl⟩ : addr = _ ∧ n = _ ∧ payload = _ := by simpa [ha] using e
    rw [hmem, redirect_mem]
    exact ⟨hw, hlmd⟩

/-- A pending read leaves memory and hands the extended value on under its tag. -/
theorem step_of_pending_read {s t : State} {tag : Tag} {addr : Word} {n : Width} {sg : Bool} (hr : Running s)
    (h : step s = .next t) (ha : s.exMem.acc = .read tag addr n sg) :
    t.mem = s.mem ∧ ∃ v, memRead s.cfg.memSize s.mem addr n = some v ∧
      t.memWb.lmd = some { tag := tag, value := extendLoad n sg v } := by
  obtain ⟨s1, hm, hmem⟩ := step_memoryStage_result hr h
  rcases memoryStage_eq_ok hm with ⟨e, -⟩ | ⟨_, _, _, _, v, e, hv, rfl, hlmd⟩ | ⟨_, _, _, _, e, -⟩
  · simp [ha] at e
  · obtain ⟨rfl, rfl, rfl, rfl⟩ : tag = _ ∧ addr = _ ∧ n = _ ∧ sg = _ := by simpa [ha] using e
    exact ⟨hmem.trans (redirect_mem s), v, hv, hlmd⟩
  · simp [ha] at e

/-- With no pending access memory is left and there is no load record. -/
theorem step_of_no_access {s t : State} (hr : Running s) (h : step s = .next t) (ha : s.exMem.acc = .none) :
    t.mem = s.mem ∧ t.memWb.lmd = none := by
  obtain ⟨s1, hm, hmem⟩ := step_memoryStage_result hr h
  rcases memoryStage_eq_ok hm with ⟨-, rfl, hlmd⟩ | ⟨_, _, _, _, _, e, -⟩ | ⟨_, _, _, _, e, -⟩
  · exact ⟨hmem.trans (redirect_mem s), hlmd⟩
  · simp [ha] at e
  · simp [ha] at e

end Sys2Proof.Machine

open Sys2Proof Sys2Proof.Machine

/-- Settles O48, by the pending access: a write, a read at each width, none, and the two out of range. -/
theorem memoryStageServicesAccess : Obligations.MemoryStageServicesAccess := by
  intro s hr
  refine ⟨fun t h => ⟨fun addr n payload ha => step_of_pending_write hr h ha, ?read,
    fun ha => step_of_no_access hr h ha⟩, ?readFault, ?writeFault⟩
  case read =>
    intro tag addr n sg ha
    obtain ⟨hmem, v, hv, hlmd⟩ := step_of_pending_read hr h ha
    refine ⟨hmem, v, hv, hlmd.trans ?_⟩
    cases n with
    | byte => rw [extendLoad_byte]
    | half => rw [extendLoad_half]
    | word => rfl
    | double => rfl
  case readFault =>
    intro tag addr n sg ha hout
    exact step_of_memoryStage_error hr ((memoryStage_eq_error_iff ..).2 ⟨addr, rfl, .inl ⟨tag, n, sg, ha, hout⟩⟩)
  case writeFault =>
    intro addr n payload ha hout
    exact step_of_memoryStage_error hr ((memoryStage_eq_error_iff ..).2 ⟨addr, rfl, .inr ⟨n, payload, ha, hout⟩⟩)

end

section
/-! Settles the statement that the decoder reads back what the encoder writes (30_encoding.md sections 1 to 3). -/

namespace Sys2Proof

/-! ## One row at a time (R91 to R93) -/

/-- A Register-format word of opcode 0 is read by its function code (R94). -/
theorem decodeWord_wordR_zero (rs1 rs2 rd : Reg) (funct : BitVec 6) :
    decodeWord (wordR 0 rs1 rs2 rd funct) = decodeFunct0 (wordR 0 rs1 rs2 rd funct) := by
  rw [decodeWord, decodeOpcode, fieldOpcode_wordR]
  rfl

/-- A Register-format word of opcode 1 is read by its function code (R94). -/
theorem decodeWord_wordR_one (rs1 rs2 rd : Reg) (funct : BitVec 6) :
    decodeWord (wordR 1 rs1 rs2 rd funct) = decodeFunct1 (wordR 1 rs1 rs2 rd funct) := by
  rw [decodeWord, decodeOpcode, fieldOpcode_wordR]
  rfl

/-- The decoder is a left inverse of the encoder: each field of the word is the operand written there, and the opcode,
with the function code under opcodes 0 and 1, picks the row. One alternative for each format: Register under opcode 0
and under opcode 1, Immediate, Jump. -/
theorem decodeWord_encode (i : Instr) : decodeWord (encode i) = some i := by
  cases i <;> rw [encode] <;>
    first
    | rw [decodeWord_wordR_zero, decodeFunct0, fieldFunct_wordR, fieldRs1_wordR, fieldRs2_wordR, fieldRdR_wordR]; rfl
    | rw [decodeWord_wordR_one, decodeFunct1, fieldFunct_wordR, fieldRs1_wordR, fieldRs2_wordR, fieldRdR_wordR]; rfl
    | rw [decodeWord, decodeOpcode, fieldOpcode_wordI, fieldRs1_wordI, fieldRdI_wordI, fieldImm_wordI]; rfl
    | rw [decodeWord, decodeOpcode, fieldOpcode_wordJ, fieldOffset_wordJ]; rfl

end Sys2Proof

open Sys2Proof Sys2Proof.Machine

/-- Settles O1: the four bytes spell the encoded word, whatever follows them. -/
theorem decodeEncodeAgree : Obligations.DecodeEncodeAgree := fun i =>
  ⟨decodeWord_encode i, decode_of_decodeWord (decodeWord_encode i)⟩

end

section
/-! Settles the statements about the invariants of 10_state.md section 12: every step keeps the structure of the
machine and the exactness of the markers, and reset meets them. -/

namespace Sys2Proof.Machine

/-! ## A step of a running machine -/

theorem not_stopped_of_running {s : State} (hr : Running s) : (s.halted || s.fatal) = false := by
  obtain ⟨hhalted, hfatal⟩ := hr
  simp [hhalted, hfatal]

/-- The inversion of a step without the case of a stopped machine: after the stages of every cycle Execute found no
unit, or it took its word and Decode waited, or Decode and Fetch went on. -/
theorem step_cases_of_running {s t : State} (hr : Running s) (h : step s = .next t) :
    ∃ s2 w fresh, CycleTop s s2 w fresh ∧
      ((issuePath (pathOfWord (executeInput s).iw) (executeInput s) s2 = .noUnit ∧ t = endExecuteStall w s2) ∨
       ∃ s3 x, issuePath (pathOfWord (executeInput s).iw) (executeInput s) s2 = .taken s3 x ∧
        ((decodeStage fresh (decodeInput s) s3 = none ∧ t = endDecodeStall w x s3) ∨
         ∃ y z, decodeStage fresh (decodeInput s) s3 = some y ∧ fetchStage s3 = .ok z ∧
          t = endFetched w x y z s3)) := by
  rcases step_cases h with ⟨hstop, -⟩ | ⟨-, hcase⟩
  · rw [not_stopped_of_running hr] at hstop
    cases hstop
  · exact hcase

/-! ## The structural invariant, part by part -/

/-- No record of the latch is for a pair at slot 31. -/
def memWbOk (w : MemWb) : Bool :=
  recordOk w.resAlu && recordOk w.resFadd && recordOk w.resFmul && recordOk w.resFdiv && recordOk w.lmd

/-- The parts of `machineOk` that no latch has a share in. -/
structure StoreOk (s : State) : Prop where
  cfg : s.cfg.wf = true
  mem : memoryOk s = true
  pools : ∀ k, poolOk s.cfg k (s.pool k) = true

theorem machineOk_iff (s : State) :
    machineOk s = true ↔ StoreOk s ∧ memWbOk s.memWb = true ∧ exMemOk s.exMem = true := by
  simp only [machineOk, memWbOk, Bool.and_eq_true]
  constructor
  · rintro ⟨⟨⟨⟨⟨⟨⟨⟨⟨⟨⟨hcfg, hmem⟩, halu⟩, hfadd⟩, hfmul⟩, hfdiv⟩, h1⟩, h2⟩, h3⟩, h4⟩, h5⟩, hx⟩
    refine ⟨⟨hcfg, hmem, fun k => ?_⟩, ⟨⟨⟨⟨h1, h2⟩, h3⟩, h4⟩, h5⟩, hx⟩
    cases k <;> assumption
  · rintro ⟨⟨hcfg, hmem, hpools⟩, ⟨⟨⟨⟨h1, h2⟩, h3⟩, h4⟩, h5⟩, hx⟩
    exact ⟨⟨⟨⟨⟨⟨⟨⟨⟨⟨⟨hcfg, hmem⟩, hpools .alu⟩, hpools .fadd⟩, hpools .fmul⟩, hpools .fdiv⟩, h1⟩, h2⟩, h3⟩, h4⟩, h5⟩, hx⟩

theorem memoryOk_iff (s : State) :
    memoryOk s = true ↔ Memory.wf s.mem = true ∧ ∀ c ∈ s.mem, c.1 < s.cfg.memSize := by
  simp [memoryOk]

/-- Every latency is at least 1 within the bounds of R8. -/
theorem latency_pos {cfg : Configuration} (h : cfg.wf = true) (k : UnitClass) : 1 ≤ latency cfg k := by
  simp only [Configuration.wf, Bool.and_eq_true, decide_eq_true_eq] at h
  obtain ⟨⟨⟨⟨-, hfadd⟩, hfmul⟩, hfdiv⟩, -⟩ := h
  cases k <;> simp only [latency, le_refl, hfadd, hfmul, hfdiv]

/-- `StoreOk` depends on the configuration, memory and the pools only. -/
theorem StoreOk.congr {s t : State} (h : StoreOk s) (hcfg : t.cfg = s.cfg) (hmem : t.mem = s.mem)
    (hpool : ∀ k, t.pool k = s.pool k) : StoreOk t := by
  obtain ⟨h1, h2, h3⟩ := h
  refine ⟨by rwa [hcfg], ?_, fun k => by rw [hcfg, hpool]; exact h3 k⟩
  rw [memoryOk_iff] at h2 ⊢
  rwa [hcfg, hmem]

/-! ## The Memory stage and Execute phase 1 -/

/-- The Memory stage keeps memory canonical and below `MEMSIZE`. -/
theorem memoryStage_memoryOk {s s1 : State} {lmd : Option Record} (h : memoryStage s = .ok (s1, lmd))
    (hok : memoryOk s = true) : memoryOk s1 = true := by
  rw [memoryOk_iff] at hok ⊢
  obtain ⟨hwf, hlt⟩ := hok
  rcases memoryStage_eq_ok h with ⟨-, rfl, -⟩ | ⟨_, _, _, _, _, -, -, rfl, -⟩ | ⟨_, _, _, m, -, hw, rfl, -⟩
  · rw [redirect_mem, redirect_cfg]
    exact ⟨hwf, hlt⟩
  · rw [redirect_mem, redirect_cfg]
    exact ⟨hwf, hlt⟩
  · rw [redirect_mem, redirect_cfg]
    exact ⟨wf_memWrite hw hwf, below_memWrite hw hlt⟩

/-- The record of a load whose access belongs to its word is for no pair at slot 31. -/
theorem memoryStage_recordOk {s s1 : State} {lmd : Option Record} (h : memoryStage s = .ok (s1, lmd))
    (hx : exMemOk s.exMem = true) : recordOk lmd = true := by
  rcases memoryStage_eq_ok h with ⟨-, -, rfl⟩ | ⟨_, _, _, _, _, hacc, -, -, rfl⟩ | ⟨_, _, _, _, -, -, -, rfl⟩
  · rfl
  · exact wf_of_exMemOk hx hacc
  · rfl

/-- The stages of every cycle keep the invariant, and leave no unit at the full latency of its class, so that a
dispatch this cycle ends when no other unit does. -/
theorem CycleTop.storeOk {s s2 : State} {w : MemWb} {fresh : List Record} (h : CycleTop s s2 w fresh)
    (hok : StoreOk s) (hx : exMemOk s.exMem = true) :
    StoreOk s2 ∧ memWbOk w = true ∧ ∀ k, ∀ u ∈ s2.pool k, ∀ r, u.remaining = some r → r < latency s2.cfg k := by
  obtain ⟨hcfg, -, -, -, -, -, -, -, -, hpool, -⟩ := h.frame
  have hunload k := poolOk_tick_unload (hok.pools k)
  obtain ⟨s1, lmd, hm, rfl, rfl, -⟩ := h.ex
  have hmem : memoryOk s1 = true := memoryStage_memoryOk hm hok.mem
  have hlmd : recordOk lmd = true := memoryStage_recordOk hm hx
  have hrec k : recordOk (unloadPool (tickPool (s1.pool k))).1 = true := by
    obtain ⟨m, pc, rfl, -⟩ := memoryStage_frame hm
    obtain ⟨-, -, hrec⟩ := hunload k
    cases k <;> exact hrec
  refine ⟨⟨by rw [hcfg]; exact hok.cfg, ?_, fun k => ?_⟩, ?_, fun k => ?_⟩
  · rw [memoryOk_iff] at hmem ⊢
    simpa using hmem
  · obtain ⟨hsound, -, -⟩ := hunload k
    rw [hcfg, hpool]
    exact hsound
  · have h1 := hrec .alu; have h2 := hrec .fadd; have h3 := hrec .fmul; have h4 := hrec .fdiv
    simp only [State.pool] at h1 h2 h3 h4
    simp [memWbOk, nextMemWb, executePhase1, h1, h2, h3, h4, hlmd]
  · obtain ⟨-, hbelow, -⟩ := hunload k
    rw [hcfg, hpool]
    exact hbelow

/-! ## Execute phase 2 -/

/-- A taken instruction keeps the invariant: a unit operation has a tag of its kind and goes to an Idle unit of its
class, at a latency no other unit has to go. -/
theorem StoreOk.taken {w : Word} {e : IdEx} {s s' : State} {x : ExMem} (hok : StoreOk s)
    (hbelow : ∀ k, ∀ u ∈ s.pool k, ∀ r, u.remaining = some r → r < latency s.cfg k)
    (h : issuePath (pathOfWord w) e s = .taken s' x) : StoreOk s' := by
  obtain ⟨hcfg, -, -, -, -, hmem, -⟩ := issuePath_frame h
  have hfits := pathOfWord_ok w
  rcases issuePath_taken h with ⟨rfl | ⟨op, dst, a, b, k, hp, -, rfl⟩, -⟩
  · exact hok.congr hcfg hmem (by simp)
  · rw [hp] at hfits
    have hload := poolOk_dispatch (j := k) (a := e.a) (b := e.b) (hok.pools op.unitClass) (hbelow op.unitClass) rfl
      hfits (latency_pos hok.cfg op.unitClass)
    refine ⟨by rw [hcfg]; exact hok.cfg, ?_, fun c => ?_⟩
    · rw [memoryOk_iff, hcfg, hmem, ← memoryOk_iff]
      exact hok.mem
    · rw [hcfg, State.setMarkers_pool]
      by_cases hc : c = op.unitClass
      · subst hc
        rw [State.pool_setPool_same]
        exact hload
      · rw [State.pool_setPool_ne _ _ hc]
        exact hok.pools c

/-! ## The step -/

theorem machineOk_step {s t : State} (hok : machineOk s = true) (h : step s = .next t) : machineOk t = true := by
  rcases step_cases h with ⟨-, rfl⟩ | ⟨-, s2, w, fresh, htop, hcase⟩
  · exact hok
  · obtain ⟨hstore, -, hx⟩ := (machineOk_iff s).1 hok
    obtain ⟨hstore2, hw, hbelow⟩ := htop.storeOk hstore hx
    rw [machineOk_iff]
    rcases hcase with ⟨-, rfl⟩ | ⟨s3, x, hi, hcase⟩
    · exact ⟨hstore2.congr rfl rfl fun k => by cases k <;> rfl, hw, exMemOk_nop⟩
    · have hstore3 := hstore2.taken hbelow hi
      have hx3 := exMemOk_of_taken hi
      rcases hcase with ⟨-, rfl⟩ | ⟨y, z, -, -, rfl⟩
      · exact ⟨hstore3.congr rfl rfl fun k => by cases k <;> rfl, hw, hx3⟩
      · exact ⟨hstore3.congr rfl rfl fun k => by cases k <;> rfl, hw, hx3⟩

/-! ## Markers (R47) -/

/-- A bubble has no destination. -/
theorem dstSlots_nopIdEx : (pathOfWord nopIdEx.iw).dstSlots = [] := rfl

/-- The destination of what Execute works on has no marker set: it is that of `ID_EX`, or under a flush there is
none. -/
theorem executeInput_free {s : State} (h : DestinationFree s) :
    ∀ sl ∈ (pathOfWord (executeInput s).iw).dstSlots, s.marker sl = false := by
  unfold executeInput
  split
  · exact fun sl hsl => absurd hsl List.not_mem_nil
  · exact h

/-- What the stages of every cycle clear stays clear. -/
theorem CycleTop.marker_of_clear {s s2 : State} {w : MemWb} {fresh : List Record} (h : CycleTop s s2 w fresh)
    {sl : Slot} (hs : s.marker sl = false) : s2.marker sl = false := by
  rw [h.marker, hs, Bool.false_and]

/-- A dispatch keeps the markers exact: it adds one writer to each slot of a destination that had none, and sets
that slot's marker. -/
theorem CycleTop.exact_taken {s s2 s3 : State} {w : MemWb} {fresh : List Record} {x : ExMem}
    (h : CycleTop s s2 w fresh) (hx : MarkersExact s) (hd : DestinationFree s)
    (hi : issuePath (pathOfWord (executeInput s).iw) (executeInput s) s2 = .taken s3 x) (sl : Slot) :
    poolWriters s3 sl + exMemWriters x sl + memWbWriters w sl = if s3.marker sl then 1 else 0 := by
  have hexact := h.exact hx sl
  have hadd := writers_taken hi sl
  rw [count_dstSlots] at hadd
  rw [issuePath_marker hi]
  by_cases hsl : sl ∈ (pathOfWord (executeInput s).iw).dstSlots
  · have hclear := h.marker_of_clear (executeInput_free hd sl hsl)
    simp only [hclear, Bool.false_eq_true, if_false] at hexact
    simp only [hsl, if_true] at hadd
    simp only [hsl, decide_true, Bool.true_or, if_true]
    omega
  · simp only [hsl, if_false] at hadd
    simp only [hsl, decide_false, Bool.false_or]
    omega

theorem markersExact_step {s t : State} (hx : MarkersExact s) (hd : DestinationFree s) (h : step s = .next t) :
    MarkersExact t ∧ DestinationFree t := by
  rcases step_cases h with ⟨-, rfl⟩ | ⟨-, s2, w, fresh, htop, hcase⟩
  · exact ⟨hx, hd⟩
  · rcases hcase with ⟨-, rfl⟩ | ⟨s3, x, hi, ⟨-, rfl⟩ | ⟨y, z, hdec, -, rfl⟩⟩
    · obtain ⟨-, -, hidEx, -⟩ := htop.frame
      refine ⟨fun sl => ?_, fun sl hsl => htop.marker_of_clear (hd sl ?_)⟩
      · rw [writersOf_eq, endExecuteStall_exMem, exMemWriters_nop, Nat.add_zero]
        exact htop.exact hx sl
      · rwa [endExecuteStall_idEx, hidEx] at hsl
    · refine ⟨fun sl => ?_, fun sl hsl => ?_⟩
      · rw [writersOf_eq]
        exact htop.exact_taken hx hd hi sl
      · rw [endDecodeStall_idEx, dstSlots_nopIdEx] at hsl
        cases hsl
    · obtain ⟨hready, rfl⟩ := decodeStage_eq_some hdec
      refine ⟨fun sl => ?_, marker_of_pathReady hready⟩
      rw [writersOf_eq]
      exact htop.exact_taken hx hd hi sl

/-! ## Reset (R50) -/

@[simp] theorem marker_resetWith (cfg : Configuration) (image : Memory) (start : Word) (sl : Slot) :
    (State.resetWith cfg image start).marker sl = false := by
  cases sl <;> simp [State.resetWith, State.marker]

@[simp] theorem pool_resetWith (cfg : Configuration) (image : Memory) (start : Word) (k : UnitClass) :
    (State.resetWith cfg image start).pool k = List.replicate (unitCount cfg k) .idle := by
  cases k <;> rfl

/-- A pool of Idle units is sound. -/
theorem poolOk_replicate_idle (cfg : Configuration) (k : UnitClass) :
    poolOk cfg k (List.replicate (unitCount cfg k) .idle) = true := by
  refine (poolOk_iff ..).2 ⟨List.length_replicate, fun u hu => ?_, ?_⟩
  · rw [List.eq_of_mem_replicate hu]
    rfl
  · exact List.pairwise_replicate.2 (.inr fun r h => by cases h)

/-- Idle units hold no tag. -/
theorem poolTags_replicate_idle (n : Nat) : poolTags (List.replicate n .idle) = [] := by
  simp [poolTags, FuncUnit.tag?]

theorem machineOk_resetWith {cfg : Configuration} {image : Memory} (start : Word) (hcfg : cfg.wf = true)
    (hwf : Memory.wf image = true) (hlt : ∀ c ∈ image, c.1 < cfg.memSize) :
    machineOk (State.resetWith cfg image start) = true := by
  refine (machineOk_iff _).2 ⟨⟨hcfg, (memoryOk_iff _).2 ⟨hwf, hlt⟩, fun k => ?_⟩, rfl, exMemOk_nop⟩
  rw [pool_resetWith]
  exact poolOk_replicate_idle cfg k

theorem markersExact_resetWith (cfg : Configuration) (image : Memory) (start : Word) :
    MarkersExact (State.resetWith cfg image start) := by
  intro sl
  rw [marker_resetWith, writersOf_eq]
  have hidle n : covers (poolTags (List.replicate n .idle)) sl = 0 := by rw [poolTags_replicate_idle, covers_nil]
  simp only [poolWriters, State.resetWith, hidle]
  rfl

/-- Reset with a bounded configuration and a canonical image below `MEMSIZE` meets every invariant. -/
theorem reset_invariants {cfg : Configuration} {image : Memory} (start : Word) (hcfg : cfg.wf = true)
    (hwf : Memory.wf image = true) (hlt : ∀ c ∈ image, c.1 < cfg.memSize) :
    machineOk (State.resetWith cfg image start) = true ∧ MarkersExact (State.resetWith cfg image start) ∧
    DestinationFree (State.resetWith cfg image start) ∧ atRest (State.resetWith cfg image start) = true :=
  ⟨machineOk_resetWith start hcfg hwf hlt, markersExact_resetWith cfg image start,
    fun sl _ => marker_resetWith cfg image start sl,
    (atRest_beforeFirstCycle (State.resetWith cfg image start)).trans hcfg⟩

end Sys2Proof.Machine

open Sys2Proof Sys2Proof.Machine

/-- Settles O57, by what the stages of every cycle and then Execute make of each part of the invariant. -/
theorem stepKeepsMachineOk : Obligations.StepKeepsMachineOk := fun _ _ => machineOk_step

/-- Settles O58: writers move with the records, Writeback clears what it commits, and a dispatch sets what it adds. The
markers need no help of the structural invariant. -/
theorem stepKeepsMarkersExact : Obligations.StepKeepsMarkersExact := fun _ _ _ => markersExact_step

/-- Settles O39: everything is Idle, empty and clear after reset. -/
theorem resetMeetsInvariants : Obligations.ResetMeetsInvariants :=
  ⟨fun _ _ start hcfg hwf hlt => reset_invariants start hcfg hwf hlt,
    reset_invariants (image := []) 0 rfl rfl (by simp)⟩

end

section
/-! Settles the statements about the words the decoder ignores bits of, leaves unassigned, or is shown in the spec
(30_encoding.md sections 3 and 4). -/

namespace Sys2Proof

/-! ## The fields the decoder reads (R94, R105) -/

theorem decodeWord_of_opcode_zero {w : Word} (h : fieldOpcode w = 0) : decodeWord w = decodeFunct0 w := by
  rw [decodeWord, decodeOpcode, h]
  rfl

theorem decodeWord_of_opcode_one {w : Word} (h : fieldOpcode w = 1) : decodeWord w = decodeFunct1 w := by
  rw [decodeWord, decodeOpcode, h]
  rfl

/-- Under opcodes 0 and 1 all fields but `shamt` are read. -/
theorem decodeWord_congr_register {w w' : Word} (hop : fieldOpcode w = 0 ∨ fieldOpcode w = 1)
    (hop' : fieldOpcode w' = fieldOpcode w) (hrs1 : fieldRs1 w = fieldRs1 w') (hrs2 : fieldRs2 w = fieldRs2 w')
    (hrd : fieldRdR w = fieldRdR w') (hfunct : fieldFunct w = fieldFunct w') : decodeWord w = decodeWord w' := by
  rcases hop with hop | hop <;> rw [hop] at hop'
  · rw [decodeWord_of_opcode_zero hop, decodeWord_of_opcode_zero hop', decodeFunct0, decodeFunct0, hrs1, hrs2, hrd,
      hfunct]
  · rw [decodeWord_of_opcode_one hop, decodeWord_of_opcode_one hop', decodeFunct1, decodeFunct1, hrs1, hrs2, hrd,
      hfunct]

/-- From function code 10 (hexadecimal) on, the rows under opcode 1 have no `rd`: they are the comparisons, and two
that read no field. -/
theorem decodeFunct1_congr_comparison {w w' : Word} (hrs1 : fieldRs1 w = fieldRs1 w')
    (hrs2 : fieldRs2 w = fieldRs2 w') (hfunct : fieldFunct w = fieldFunct w') (h : 0x10 ≤ (fieldFunct w).toNat) :
    decodeFunct1 w = decodeFunct1 w' := by
  have hlt := (fieldFunct w).isLt
  rw [decodeFunct1, decodeFunct1, hrs1, hrs2, ← hfunct]
  generalize (fieldFunct w).toNat = n at h hlt
  interval_cases n <;> rfl

/-! ## Unassigned words (R104) -/

/-- A six-bit pattern is one of its 64 values. -/
theorem eq_ofNat_six (f : BitVec 6) : ∃ n < 64, f = BitVec.ofNat 6 n :=
  ⟨f.toNat, f.isLt, by simp⟩

theorem decodeFunct0_eq_none_iff (w : Word) :
    decodeFunct0 w = none ↔ fieldFunct w ∈ [0x01, 0x02, 0x03, 0x05, 0x27, 0x2E, 0x2F] ∨
      (8 ≤ (fieldFunct w).toNat ∧ (fieldFunct w).toNat < 0x10) ∨
      (0x16 ≤ (fieldFunct w).toNat ∧ (fieldFunct w).toNat < 0x20) ∨ 0x36 ≤ (fieldFunct w).toNat := by
  rw [decodeFunct0]
  generalize fieldFunct w = f
  obtain ⟨n, hn, rfl⟩ := eq_ofNat_six f
  interval_cases n <;> simp

theorem decodeFunct1_eq_none_iff (w : Word) : decodeFunct1 w = none ↔ 0x1E ≤ (fieldFunct w).toNat := by
  rw [decodeFunct1]
  generalize fieldFunct w = f
  obtain ⟨n, hn, rfl⟩ := eq_ofNat_six f
  interval_cases n <;> simp

/-- By the 64 opcodes; under 0 and 1 by the function code. -/
theorem decodeWord_eq_none_iff (w : Word) :
    decodeWord w = none ↔
      fieldOpcode w ∈ [0x15, 0x1E, 0x1F, 0x22, 0x2A, 0x2C, 0x2D] ∨ 0x36 ≤ (fieldOpcode w).toNat ∨
      (fieldOpcode w = 0 ∧ decodeFunct0 w = none) ∨ (fieldOpcode w = 1 ∧ decodeFunct1 w = none) := by
  rw [decodeWord, decodeOpcode]
  generalize fieldOpcode w = f
  obtain ⟨n, hn, rfl⟩ := eq_ofNat_six f
  interval_cases n <;> simp

end Sys2Proof

namespace Sys2Proof.Machine

/-- A word whose path is that of `NOP` leaves the latch of a `NOP` behind it in Decode. -/
theorem decodeStage_pass {d : IfId} (h : pathOfWord d.iw = .pass) (fresh : List Record) (s : State) :
    decodeStage fresh d s = some { iw := d.iw, pc := d.pc, a := 0, b := 0, cond := false } := by
  rw [decodeStage, stageLatch, h, pathReady_pass]
  rfl

/-- Execute takes it and changes nothing. -/
theorem executePhase2_pass {e : IdEx} (h : pathOfWord e.iw = .pass) (s : State) :
    executePhase2 e s = .taken s (plainExMem e) := by
  rw [executePhase2, h]
  rfl

end Sys2Proof.Machine

open Sys2Proof Sys2Proof.Machine

/-- Settles O2: the opcode picks the row, and each row names the fields it reads. -/
theorem ignoredFieldsIgnored : Obligations.IgnoredFieldsIgnored := by
  refine ⟨?shamt, ?comparison, ?branch, ?flagBranch, ?lhi, ?_, ?_, ?_, ?_, ?nop⟩
  case shamt =>
    intro w w' hop hmem hrs1 hrs2 hrd hfunct
    exact decodeWord_congr_register (by simpa using hmem) hop.symm hrs1 hrs2 hrd hfunct
  case comparison =>
    intro w w' hop hop' hge hrs1 hrs2 hfunct
    rw [decodeWord_of_opcode_one hop, decodeWord_of_opcode_one hop']
    exact decodeFunct1_congr_comparison hrs1 hrs2 hfunct hge
  case branch =>
    intro w w' hop hmem hrs1 himm
    have hcode : fieldOpcode w = 0x04 ∨ fieldOpcode w = 0x05 := by simpa using hmem
    rcases hcode with hcode | hcode <;> simp [decodeWord, decodeOpcode, ← hop, hcode, hrs1, himm]
  case flagBranch =>
    intro w w' hop hmem himm
    have hcode : fieldOpcode w = 0x06 ∨ fieldOpcode w = 0x07 := by simpa using hmem
    rcases hcode with hcode | hcode <;> simp [decodeWord, decodeOpcode, ← hop, hcode, himm]
  case lhi =>
    intro w w' hop hop' hrd himm
    simp [decodeWord, decodeOpcode, hop, hop', hrd, himm]
  case nop =>
    intro w hop hfunct
    rw [decodeWord_of_opcode_zero hop, decodeFunct0, hfunct]
    rfl
  all_goals exact fun w hop => by rw [decodeWord, decodeOpcode, hop]; rfl

/-- Settles O3: the decoder run on twelve words. -/
theorem sampleWordsDecode : Obligations.SampleWordsDecode := by
  unfold Obligations.SampleWordsDecode
  decide

/-- Settles O4: the unassigned codes are the gaps of the tables, and such a word has the path of `NOP`. -/
theorem unassignedWordsPass : Obligations.UnassignedWordsPass := by
  refine ⟨fun w => ?_, fun w pc fresh s hnone => ?_⟩
  · rw [decodeWord_eq_none_iff, decodeFunct0_eq_none_iff, decodeFunct1_eq_none_iff]
  · have hpath := pathOfWord_of_unassigned hnone
    refine ⟨by rw [classOf, hnone], decodeStage_pass (d := { iw := w, pc := pc }) hpath fresh s, ?_⟩
    rintro e rfl
    exact executePhase2_pass hpath s

end

section
/-! Settles the statements about the unsigned integer forms, the register shifts and `LHI` (40_integer_alu.md). -/

namespace Sys2Proof.Machine

/-! ## The second operand as a number or a shift amount -/

/-- The sum of the signed readings, modulo 2^32, is the sum of the patterns. -/
theorem computeInt_add_toInt (a b : Word) : computeInt .add a b = BitVec.ofInt 32 (a.toInt + b.toInt) := by
  rw [BitVec.ofInt_add, BitVec.ofInt_toInt, BitVec.ofInt_toInt, computeInt]

/-- The difference of the signed readings, modulo 2^32, is the difference of the patterns. -/
theorem computeInt_sub_toInt (a b : Word) : computeInt .sub a b = BitVec.ofInt 32 (a.toInt - b.toInt) := by
  rw [Int.sub_eq_add_neg, BitVec.ofInt_add, BitVec.ofInt_neg, BitVec.ofInt_toInt, BitVec.ofInt_toInt,
    ← BitVec.sub_eq_add_neg, computeInt]

/-- The shift amount of a register is its low five bits (R138). -/
theorem shiftAmount_eq_extractLsb' (b : Word) : shiftAmount b = (b.extractLsb' 0 5).toNat := by
  rw [shiftAmount, BitVec.extractLsb'_toNat, Nat.shiftRight_zero]

/-- Zero extension keeps the unsigned value. -/
theorem toNat_zext16 (imm : BitVec 16) : (zext16 imm).toNat = imm.toNat :=
  BitVec.toNat_setWidth_of_le (by decide)

/-- A zero-extended immediate is the pattern of its unsigned reading. -/
theorem ofInt_zext16 (imm : BitVec 16) : BitVec.ofInt 32 imm.toNat = zext16 imm := by
  rw [← toNat_zext16, ofInt_toNat]

/-- The immediate of `LHI` shifted left by 16 stands over zeros (R157). -/
theorem computeInt_sll_zext16 (imm : BitVec 16) : computeInt .sll (zext16 imm) 16 = imm ++ 0#16 := by
  apply BitVec.eq_of_toNat_eq
  rw [computeInt_sll (n := 16) rfl, toNat_zext16, BitVec.toNat_append, BitVec.toNat_ofNat, Nat.shiftLeft_eq]
  have := imm.isLt
  simp only [BitVec.toNat_ofNat, Nat.zero_mod, Nat.or_zero]
  omega

end Sys2Proof.Machine

open Sys2Proof Sys2Proof.Machine

/-- Settles O11: the twins have one path, and the sum and the difference modulo 2^32 do not depend on how the operands
are read. -/
theorem integerUnsignedTwins : Obligations.IntegerUnsignedTwins := by
  refine ⟨?_, ?_, ?values⟩
  case values =>
    intro rd rs1 rs2 s
    exact ⟨rfl, rfl, writesReg_of_regs rfl (computeInt_add_toInt ..), writesReg_of_regs rfl (computeInt_sub_toInt ..)⟩
  all_goals exact rowR_zero_of_decodeFunct0 fun w hfunct => by simp [decodeFunct0, hfunct]

/-- Settles O12: the shift amount is the low five bits of the register. -/
theorem integerShifts : Obligations.IntegerShifts := by
  refine ⟨?_, ?_, ?_, ?values⟩
  case values =>
    intro rd rs1 rs2 s
    have hn := shiftAmount_eq_extractLsb' (s.readReg rs2)
    exact ⟨writesReg_of_regs rfl (computeInt_sll hn), writesReg_of_regs rfl (computeInt_srl hn),
      writesReg_of_regs rfl (computeInt_sra hn), rfl, rfl, rfl⟩
  all_goals exact rowR_zero_of_decodeFunct0 fun w hfunct => by simp [decodeFunct0, hfunct]

/-- Settles O15: zero extension keeps the number, and `LHI` is a shift by 16 of it. -/
theorem immediateUnsignedAndHigh : Obligations.ImmediateUnsignedAndHigh := by
  refine ⟨?_, ?_, ?_, ?values⟩
  case values =>
    intro rd rs1 imm s
    refine ⟨writesReg_of_const rfl ?_, writesReg_of_const rfl (computeInt_sub (ofInt_zext16 imm)), ?lhi, rfl, rfl, rfl⟩
    · rw [computeInt_add_toNat, toNat_zext16]
    case lhi =>
      rw [← computeInt_sll_zext16]
      simpa only [Source.value, lo32_wide] using
        writesReg_of_through (a := .const (zext16 imm)) (b := .const 16) (i := .lhi rd imm) rfl s
  all_goals exact fun w hop => by simp [decodeWord, decodeOpcode, hop]

end

section
/-! Settles the statements about branches, jumps and the instructions without effect (43_control.md,
44_system_unimplemented.md), and about the general registers (10_state.md section 1). -/

namespace Sys2Proof.Machine

/-! ## Addresses and targets (R221, R251) -/

theorem ofNat_add_four (pc : Word) : BitVec.ofNat 32 (pc.toNat + 4) = pc + 4 := by
  rw [BitVec.ofNat_add, BitVec.ofNat_toNat, BitVec.setWidth_eq]
  rfl

/-- The address after an instruction, as the pattern of a number. -/
theorem ofInt_add_four (pc : Word) : BitVec.ofInt 32 ((pc.toNat : Int) + 4) = pc + 4 := by
  rw [← ofNat_add_four, ← BitVec.ofInt_natCast]
  rfl

theorem branchTarget_eq_ofInt (pc : Word) (imm : BitVec 16) :
    branchTarget pc imm = BitVec.ofInt 32 ((pc.toNat : Int) + 4 + imm.toInt) := by
  rw [branchTarget, BitVec.ofInt_add, ofInt_add_four, ofInt_sext16]

/-- A sign-extended offset is the pattern of its signed reading. -/
theorem ofInt_sext26 (offset : BitVec 26) : BitVec.ofInt 32 offset.toInt = sext26 offset := by
  rw [sext26, ← BitVec.toInt_signExtend_of_le (by decide : 26 ≤ 32), BitVec.ofInt_toInt]

theorem jumpTarget_eq_ofInt (pc : Word) (offset : BitVec 26) :
    jumpTarget pc offset = BitVec.ofInt 32 ((pc.toNat : Int) + 4 + offset.toInt) := by
  rw [jumpTarget, BitVec.ofInt_add, ofInt_add_four, ofInt_sext26]

/-! ## Branches alone (R250) -/

/-- A branch sends `PC` to its target where its condition holds, and on to the next instruction elsewhere. -/
theorem exec_branch {i : Instr} {test : BranchTest} {disp : BitVec 16} (hp : pathOf i = .branch test disp) (s : State) :
    exec i s = .next (if test.holds (test.source.value s.readSlot)
      then s.setPc (BitVec.ofInt 32 ((s.pc.toNat : Int) + 4 + disp.toInt))
      else s.setPc (BitVec.ofNat 32 (s.pc.toNat + 4))) := by
  rw [exec_eq_runAlone, hp, runAlone, branchTarget_eq_ofInt, ofNat_add_four]
  rfl

theorem holds_zero (s : State) (i : Reg) :
    (BranchTest.zero i).holds ((BranchTest.zero i).source.value s.readSlot) = true ↔ (s.readReg i).toNat = 0 := by
  simp [BranchTest.holds, BranchTest.source, Source.value, State.readSlot, BitVec.toNat_eq]

theorem holds_nonZero (s : State) (i : Reg) :
    (BranchTest.nonZero i).holds ((BranchTest.nonZero i).source.value s.readSlot) = true ↔ (s.readReg i).toNat ≠ 0 := by
  simp [BranchTest.holds, BranchTest.source, Source.value, State.readSlot, BitVec.toNat_eq]

theorem holds_flagTrue (s : State) :
    BranchTest.flagTrue.holds (BranchTest.flagTrue.source.value s.readSlot) = true ↔ s.fps = true := by
  simp only [BranchTest.holds, BranchTest.source, Source.value, State.readSlot, lo32_bit32]

theorem holds_flagFalse (s : State) :
    BranchTest.flagFalse.holds (BranchTest.flagFalse.source.value s.readSlot) = true ↔ ¬ s.fps = true := by
  simp only [BranchTest.holds, BranchTest.source, Source.value, State.readSlot, lo32_bit32, Bool.not_eq_true,
    Bool.not_eq_true']

/-! ## Instructions without effect (R103, R272) -/

/-- Nop and Unimplemented instructions have the path of `NOP`. -/
theorem pathOf_eq_pass_of_class {i : Instr} (h : i.instrClass = .nop ∨ i.instrClass = .unimplemented) :
    pathOf i = .pass := by
  cases i <;> first | rfl | simp [Instr.instrClass] at h

theorem exec_of_pathOf_eq_pass {i : Instr} (h : pathOf i = .pass) (s : State) :
    exec i s = .next { s with pc := s.pc + 4 } := by
  rw [exec_eq_runAlone, h]
  rfl

/-- An instruction that is not refused is well formed. -/
theorem wellFormed_of_pathOf {i : Instr} (h : pathOf i ≠ .slot31) : i.wellFormed = true := by
  rwa [ne_eq, pathOf_eq_slot31_iff, Bool.not_eq_false] at h

theorem slots_of_pathOf_eq_pass {i : Instr} (h : pathOf i = .pass) : sourceSlots i = [] ∧ writtenSlots i = [] := by
  have hwf : i.wellFormed = true := wellFormed_of_pathOf (by rw [h]; exact Path.noConfusion)
  rw [← pathOf_srcs hwf, ← pathOf_dstSlots hwf, h]
  exact ⟨rfl, rfl⟩

end Sys2Proof.Machine

open Sys2Proof Sys2Proof.Machine

/-- Settles O9: `R[0]` is an entry of the file like any other. -/
theorem registerZeroIsOrdinary : Obligations.RegisterZeroIsOrdinary := by
  refine ⟨fun s i j v => readReg_writeReg s i j v, fun s imm => ?addi, fun s offset => ⟨_, rfl, ?jal⟩⟩
  case addi =>
    refine ⟨_, writesReg_of_const (i := .addi 0 0 imm) rfl rfl, ?_⟩
    rw [readReg_advance, readReg_writeReg, if_pos rfl]
    rfl
  case jal =>
    rw [readReg_setPc, if_pos rfl, readReg_writeReg, if_neg (by decide)]

/-- Settles O27: addition of patterns is addition modulo 2^32 of any readings of them. -/
theorem effectiveAddressWraps : Obligations.EffectiveAddressWraps := fun base pc imm offset =>
  ⟨effAddr_eq_ofInt base imm, branchTarget_eq_ofInt pc imm, jumpTarget_eq_ofInt pc offset⟩

/-- Settles O32: each branch by what its condition says of the state. -/
theorem conditionalBranches : Obligations.ConditionalBranches := by
  refine ⟨?_, ?_, ?_, ?_, ?effects⟩
  case effects =>
    intro rs1 imm s
    refine ⟨?_, ?_, ?_, ?_⟩
    · rw [exec_branch (i := .beqz rs1 imm) rfl]
      simp only [holds_zero]
    · rw [exec_branch (i := .bnez rs1 imm) rfl]
      simp only [holds_nonZero, ite_not, ne_eq]
    · rw [exec_branch (i := .bfpt imm) rfl]
      simp only [holds_flagTrue]
    · rw [exec_branch (i := .bfpf imm) rfl]
      simp only [holds_flagFalse, ite_not]
  all_goals exact fun w hop => by simp [decodeWord, decodeOpcode, hop]

/-- Settles O33: the link is the address after the jump. -/
theorem jumpsAndLink : Obligations.JumpsAndLink := by
  refine ⟨?_, ?_, fun offset s => ⟨?_, ?_⟩⟩
  · exact fun w hop => by simp [decodeWord, decodeOpcode, hop]
  · exact fun w hop => by simp [decodeWord, decodeOpcode, hop]
  · rw [← jumpTarget_eq_ofInt]
    rfl
  · rw [← jumpTarget_eq_ofInt, ofNat_add_four]
    rfl

/-- Settles O34: the opcode alone makes a `TRAP`. -/
theorem trapHalts : Obligations.TrapHalts :=
  ⟨fun w hop => by rw [decodeWord, decodeOpcode, hop]; rfl, fun _ => rfl⟩

/-- Settles O35: the thirty are those of the two classes, whose path is that of `NOP`. -/
theorem unimplementedDoNothing : Obligations.UnimplementedDoNothing := by
  refine ⟨fun i hi => ?_, fun i => pathOf_eq_pass_of_class⟩
  have hclass : i.instrClass = if i = .nop then .nop else .unimplemented := by
    revert i
    decide
  have hpath : pathOf i = .pass := pathOf_eq_pass_of_class (by rw [hclass]; split <;> simp)
  obtain ⟨hsrc, hdst⟩ := slots_of_pathOf_eq_pass hpath
  exact ⟨exec_of_pathOf_eq_pass hpath, hsrc, hdst, hpath, hclass⟩

end

section
/-! Settles the statements about the floating-point instructions, integer multiply and divide, and the double forms that
name slot 31 (41_fp.md, 10_state.md section 3). -/

namespace Sys2Proof.Machine

/-! ## Rows under opcode 1 (R102) -/

/-- A function code under opcode 1 that `decodeFunct1` reads as an instruction of the Register fields has its row. -/
theorem rowR_one_of_decodeFunct1 {funct : BitVec 6} {mk : Reg → Reg → Reg → Instr}
    (h : ∀ w, fieldFunct w = funct → decodeFunct1 w = some (mk (fieldRdR w) (fieldRs1 w) (fieldRs2 w))) :
    RowR 0x01 funct mk := fun w hop hfunct => (decodeWord_of_opcode_one hop).trans (h w hfunct)

/-! ## Through a unit (R180) -/

/-- An instruction that goes through a unit writes what the operation computes to its destination. -/
theorem exec_of_through {i : Instr} {op : UnitOp} {dst : Tag} {a b : Source} (h : Through i op dst a b) (s : State) :
    exec i s = .next (s.writeTag dst (compute op (a.value s.readSlot) (b.value s.readSlot))).advance := by
  rw [exec_eq_runAlone, h, runAlone]

/-- A single operation reads two slots and writes one. -/
theorem writesF_arith {i : Instr} {o : FpArith} {rd rs1 rs2 : Reg} {s : State}
    (h : Through i (.arith o .single) (.fs rd) (.single rs1) (.single rs2)) :
    WritesF i s rd (fp32 o (s.readF rs1) (s.readF rs2)) := by
  rw [WritesF, exec_of_through h]
  simp only [compute, State.writeTag, Source.value, State.readSlot, lo32_wide]

/-- A double operation reads two pairs and writes one, each half to its slot. -/
theorem writesFD_arith {i : Instr} {o : FpArith} {rd rs1 rs2 : Reg}
    (h : Through i (.arith o .double) (.fd rd) (.pair rs1) (.pair rs2)) (s : State) :
    ∃ t, exec i s = .next t ∧ WritesFD i s rd (fp64 o (s.readFD rs1) (s.readFD rs2)) ∧
      t.readF (rd + 1) ++ t.readF rd =
        fp64 o (s.readF (rs1 + 1) ++ s.readF rs1) (s.readF (rs2 + 1) ++ s.readF rs2) := by
  have hexec : WritesFD i s rd (fp64 o (s.readFD rs1) (s.readFD rs2)) := exec_of_through h s
  exact ⟨_, hexec, hexec, readFD_writeFD_same s rd _⟩

/-- An integer operation of the floating path reads two slots and writes one. -/
theorem writesF_intMulDiv {i : Instr} {o : IntMulDiv} {rd rs1 rs2 : Reg} {s : State} {v : Word}
    (h : Through i (.intMulDiv o) (.fs rd) (.single rs1) (.single rs2))
    (hv : computeIntMulDiv o (s.readF rs1) (s.readF rs2) = v) : WritesF i s rd v := by
  rw [WritesF, exec_of_through h, ← hv]
  simp only [compute, State.writeTag, Source.value, State.readSlot, lo32_wide]

/-- A single comparison reads two slots and writes the flag. -/
theorem writesFlag_single {i : Instr} {r : FpRel} {rs1 rs2 : Reg} {s : State} {p : Prop} [Decidable p]
    (h : Through i (.rel r .single) .cc (.single rs1) (.single rs2))
    (hr : fpRelHolds binary32 r (s.readF rs1).toNat (s.readF rs2).toNat = decide p) : WritesFlag i s (decide p) := by
  rw [WritesFlag, exec_of_through h, ← hr]
  simp only [compute, compareFp, State.writeTag, Source.value, State.readSlot, lo32_wide, lo32_bit32]

/-- A double comparison reads two pairs and writes the flag. -/
theorem writesFlag_double {i : Instr} {r : FpRel} {rs1 rs2 : Reg} {s : State} {p : Prop} [Decidable p]
    (h : Through i (.rel r .double) .cc (.pair rs1) (.pair rs2))
    (hr : fpRelHolds binary64 r (s.readFD rs1).toNat (s.readFD rs2).toNat = decide p) : WritesFlag i s (decide p) := by
  rw [WritesFlag, exec_of_through h, ← hr]
  simp only [compute, compareFp, State.writeTag, Source.value, lo32_bit32]
  rfl

/-- A double form whose pairs all have a next slot goes through its unit (R28). -/
theorem through_onPairs {i : Instr} {is : List Reg} {op : UnitOp} {dst : Tag} {a b : Source}
    (h : pathOf i = onPairs is (.unit op dst a b)) (his : ∀ r ∈ is, r ≠ 31) : Through i op dst a b := by
  rw [Through, h, onPairs_of_ok]
  simpa [pairOk] using his

/-! ## Comparisons (R204) -/

section

variable (f : FloatFormat) (x y : Nat)

/-- No operand is a NaN: then a relation is one of the values. -/
def fpOrdered : Prop := fpIsNaN f x = false ∧ fpIsNaN f y = false

theorem fpRelHolds_of_not_ordered (r : FpRel) (h : ¬ fpOrdered f x y) : fpRelHolds f r x y = decide (r = .ne) := by
  have hnan : (fpIsNaN f x || fpIsNaN f y) = true := by
    rwa [fpOrdered, ← Bool.or_eq_false_iff, Bool.not_eq_false] at h
  exact if_pos hnan

theorem fpRelHolds_of_ordered (r : FpRel) (h : fpOrdered f x y) :
    fpRelHolds f r x y =
      match r with
      | .eq => decide (fpValue f x = fpValue f y)
      | .ne => decide (fpValue f x ≠ fpValue f y)
      | .lt => decide (fpValue f x < fpValue f y)
      | .gt => decide (fpValue f x > fpValue f y)
      | .le => decide (fpValue f x ≤ fpValue f y)
      | .ge => decide (fpValue f x ≥ fpValue f y) := by
  have hnan : ¬ (fpIsNaN f x || fpIsNaN f y) = true := by simp [h.1, h.2]
  exact if_neg hnan

/-- Every relation but "not equal" asks for two values and holds of them. -/
theorem fpRelHolds_eq_decide {r : FpRel} {rel : Prop} [Decidable rel] (hne : r ≠ .ne)
    (h : fpOrdered f x y → fpRelHolds f r x y = decide rel) :
    fpRelHolds f r x y = decide (fpIsNaN f x = false ∧ fpIsNaN f y = false ∧ rel) := by
  by_cases ho : fpOrdered f x y
  · obtain ⟨hx, hy⟩ := id ho
    simp [h ho, hx, hy]
  · have hnot : ¬ (fpIsNaN f x = false ∧ fpIsNaN f y = false ∧ rel) := fun ⟨hx, hy, _⟩ => ho ⟨hx, hy⟩
    rw [fpRelHolds_of_not_ordered f x y r ho, decide_eq_false hne, decide_eq_false hnot]

theorem fpRelHolds_eq : fpRelHolds f .eq x y =
    decide (fpIsNaN f x = false ∧ fpIsNaN f y = false ∧ fpValue f x = fpValue f y) :=
  fpRelHolds_eq_decide f x y (by decide) (fpRelHolds_of_ordered f x y .eq)

theorem fpRelHolds_lt : fpRelHolds f .lt x y =
    decide (fpIsNaN f x = false ∧ fpIsNaN f y = false ∧ fpValue f x < fpValue f y) :=
  fpRelHolds_eq_decide f x y (by decide) (fpRelHolds_of_ordered f x y .lt)

theorem fpRelHolds_gt : fpRelHolds f .gt x y =
    decide (fpIsNaN f x = false ∧ fpIsNaN f y = false ∧ fpValue f x > fpValue f y) :=
  fpRelHolds_eq_decide f x y (by decide) (fpRelHolds_of_ordered f x y .gt)

theorem fpRelHolds_le : fpRelHolds f .le x y =
    decide (fpIsNaN f x = false ∧ fpIsNaN f y = false ∧ fpValue f x ≤ fpValue f y) :=
  fpRelHolds_eq_decide f x y (by decide) (fpRelHolds_of_ordered f x y .le)

theorem fpRelHolds_ge : fpRelHolds f .ge x y =
    decide (fpIsNaN f x = false ∧ fpIsNaN f y = false ∧ fpValue f x ≥ fpValue f y) :=
  fpRelHolds_eq_decide f x y (by decide) (fpRelHolds_of_ordered f x y .ge)

/-- "Not equal" is the negation of "equal", and so holds with a NaN. -/
theorem fpRelHolds_ne : fpRelHolds f .ne x y =
    decide ¬ (fpIsNaN f x = false ∧ fpIsNaN f y = false ∧ fpValue f x = fpValue f y) := by
  rw [decide_not, ← fpRelHolds_eq]
  by_cases ho : fpOrdered f x y
  · rw [fpRelHolds_of_ordered f x y _ ho, fpRelHolds_of_ordered f x y _ ho]
    exact decide_not
  · rw [fpRelHolds_of_not_ordered f x y _ ho, fpRelHolds_of_not_ordered f x y _ ho]
    rfl

end

/-! ## Multiply and divide of integers (R200 to R203) -/

/-- A number of the range of `Int32` is the signed reading of its pattern. -/
theorem toInt_ofInt_of_bounds {z : Int} (hlow : -2 ^ 31 ≤ z) (hhigh : z < 2 ^ 31) : (BitVec.ofInt 32 z).toInt = z := by
  rw [BitVec.toInt_ofInt]
  exact Int.bmod_eq_of_le (by norm_num at *; omega) (by norm_num at *; omega)

theorem toInt_bounds (a : Word) : -2 ^ 31 ≤ a.toInt ∧ a.toInt < 2 ^ 31 :=
  ⟨BitVec.le_toInt a, BitVec.toInt_lt⟩

theorem toInt_ne_zero_iff (b : Word) : b.toInt ≠ 0 ↔ b ≠ 0 := by
  rw [ne_eq, ← BitVec.toInt_zero (w := 32), BitVec.toInt_inj]
  rfl

theorem computeIntMulDiv_mult_of_fits {a b : Word} (hlow : -2 ^ 31 ≤ a.toInt * b.toInt)
    (hhigh : a.toInt * b.toInt < 2 ^ 31) :
    computeIntMulDiv .mult a b = BitVec.ofInt 32 (a.toInt * b.toInt) := if_pos ⟨hlow, hhigh⟩

theorem computeIntMulDiv_mult_draw {a b : Word} (h : a.toInt * b.toInt < -2 ^ 31 ∨ 2 ^ 31 ≤ a.toInt * b.toInt) :
    computeIntMulDiv .mult a b = Config.mulDivDraw .mult a b := if_neg (by omega)

theorem computeIntMulDiv_div_of_exists {a b : Word} (hb : b.toInt ≠ 0) (hov : ¬ (a.toInt = -2 ^ 31 ∧ b.toInt = -1)) :
    computeIntMulDiv .div a b = BitVec.ofInt 32 (a.toInt.tdiv b.toInt) := if_pos ⟨(toInt_ne_zero_iff b).1 hb, hov⟩

theorem computeIntMulDiv_div_draw {a b : Word} (h : b.toInt = 0 ∨ (a.toInt = -2 ^ 31 ∧ b.toInt = -1)) :
    computeIntMulDiv .div a b = Config.mulDivDraw .div a b := by
  refine if_neg fun ⟨hb, hov⟩ => ?_
  rcases h with h | h
  · exact (toInt_ne_zero_iff b).2 hb h
  · exact hov h

/-- The quotient toward zero fits 32 bits but for -2^31 by -1: it is no larger than the dividend, and as large only for
a divisor of 1 or -1. -/
theorem tdiv_bounds {x y : Int} (hlow : -2 ^ 31 ≤ x) (hhigh : x < 2 ^ 31) (hov : ¬ (x = -2 ^ 31 ∧ y = -1)) :
    -2 ^ 31 ≤ x.tdiv y ∧ x.tdiv y < 2 ^ 31 := by
  have hquot : (x.tdiv y).natAbs = x.natAbs / y.natAbs := Int.natAbs_tdiv x y
  have hle : x.natAbs / y.natAbs ≤ x.natAbs := Nat.div_le_self ..
  refine ⟨by omega, ?_⟩
  by_contra hbig
  have hx : x = -2 ^ 31 := by omega
  rcases Nat.lt_or_ge y.natAbs 2 with hy | hy
  · obtain rfl | rfl : y = 0 ∨ y = 1 := by omega
    · simp at hbig
    · rw [Int.tdiv_one] at hbig
      omega
  · have hhalf : x.natAbs / y.natAbs ≤ x.natAbs / 2 := Nat.div_le_div_left hy (by decide)
    omega

/-- The remainder of the quotient toward zero is 0 or has the sign of the dividend. -/
theorem tmod_eq_zero_or_sign (x y : Int) : x.tmod y = 0 ∨ (x.tmod y).sign = x.sign := by
  by_cases hdvd : y ∣ x
  · exact .inl (Int.tmod_eq_zero_of_dvd hdvd)
  · exact .inr (by rw [Int.sign_tmod, if_neg hdvd])

/-- What DIV answers where a quotient exists: the exact quotient toward zero and its remainder (R202). -/
theorem toInt_computeIntMulDiv_div {a b : Word} (hb : b.toInt ≠ 0) (hov : ¬ (a.toInt = -2 ^ 31 ∧ b.toInt = -1)) :
    (computeIntMulDiv .div a b).toInt = a.toInt.tdiv b.toInt := by
  obtain ⟨hlow, hhigh⟩ := toInt_bounds a
  obtain ⟨hq, hq'⟩ := tdiv_bounds hlow hhigh hov
  rw [computeIntMulDiv_div_of_exists hb hov, toInt_ofInt_of_bounds hq hq']

/-! ## Double forms at slot 31 (R28, R341) -/

theorem pairOk_eq_false_iff (i : Reg) : pairOk i = false ↔ i = 31 := by simp [pairOk]

theorem runAlone_eq_refused {p : Path} {s : State} {r : Refusal} (h : runAlone p s = .refused r) :
    p = .slot31 ∧ r = .doubleAtSlot31 := by
  cases p <;> simp only [runAlone] at h
  case load dst base disp n sg => split at h <;> cases h
  case store base disp n data => split at h <;> cases h
  case slot31 => cases h; exact ⟨rfl, rfl⟩
  all_goals cases h

theorem pathOfWord_of_not_wellFormed {w : Word} {i : Instr} (h : decodeWord w = some i) (hi : i.wellFormed = false) :
    pathOfWord w = .slot31 := by
  rw [pathOfWord_of_decodeWord h, (pathOf_eq_slot31_iff i).2 hi]

/-- Decode waits for nothing such a word names. -/
theorem decodeStage_slot31 {d : IfId} (h : pathOfWord d.iw = .slot31) (fresh : List Record) (s : State) :
    (decodeStage fresh d s).isSome = true := by
  rw [decodeStage, h]
  rfl

theorem executePhase2_slot31 {e : IdEx} (h : pathOfWord e.iw = .slot31) (s : State) :
    executePhase2 e s = .refused .doubleAtSlot31 := by
  rw [executePhase2, h]
  rfl

/-- A step in which nothing but such a word is in `ID_EX` is refused. -/
theorem step_of_slot31 {s : State} (hr : Running s) (hx : s.exMem = nopExMem) (h : pathOfWord s.idEx.iw = .slot31) :
    step s = .refused .doubleAtSlot31 := by
  have hstop := not_stopped_of_running hr
  have hmem : memoryStage s = .ok (redirect s, none) := by rw [memoryStage, hx]; rfl
  have hin : executeInput s = s.idEx := by rw [executeInput, hx]; rfl
  rw [step, cycle, hstop, if_neg Bool.false_ne_true, runningCycle, hmem]
  simp only [issueAndBelow, hin, executePhase2_slot31 h]

end Sys2Proof.Machine

open Sys2Proof Sys2Proof.Machine

/-- Settles O18: each goes through its unit with the single function. -/
theorem singleArithmetic : Obligations.SingleArithmetic := by
  refine ⟨?_, ?_, ?_, ?_, ?values⟩
  case values =>
    intro rd rs1 rs2 s
    exact ⟨writesF_arith rfl, writesF_arith rfl, writesF_arith rfl, writesF_arith rfl, rfl, rfl, rfl, rfl,
      fun _ => ⟨rfl, rfl, rfl, rfl⟩⟩
  all_goals exact rowR_one_of_decodeFunct1 fun w hfunct => by simp [decodeFunct1, hfunct]

/-- Settles O19: the path reads both pairs before it writes the result. -/
theorem doubleArithmetic : Obligations.DoubleArithmetic := by
  refine ⟨?_, ?_, ?_, ?_, ?values⟩
  case values =>
    intro rd rs1 rs2 s hrd hrs1 hrs2
    have his : ∀ r ∈ [rd, rs1, rs2], r ≠ 31 := by simpa using ⟨hrd, hrs1, hrs2⟩
    have hadd : Through (.addd rd rs1 rs2) (.arith .add .double) (.fd rd) (.pair rs1) (.pair rs2) :=
      through_onPairs rfl his
    have hsub : Through (.subd rd rs1 rs2) (.arith .sub .double) (.fd rd) (.pair rs1) (.pair rs2) :=
      through_onPairs rfl his
    have hmul : Through (.multd rd rs1 rs2) (.arith .mul .double) (.fd rd) (.pair rs1) (.pair rs2) :=
      through_onPairs rfl his
    have hdiv : Through (.divd rd rs1 rs2) (.arith .div .double) (.fd rd) (.pair rs1) (.pair rs2) :=
      through_onPairs rfl his
    exact ⟨writesFD_arith hadd s, writesFD_arith hsub s, writesFD_arith hmul s, writesFD_arith hdiv s,
      hadd, hsub, hmul, hdiv⟩
  all_goals exact rowR_one_of_decodeFunct1 fun w hfunct => by simp [decodeFunct1, hfunct]

/-- Settles O20: the refused path is that of the ill-formed instructions, in the meaning and in the stages. -/
theorem doubleAtSlot31Refused : Obligations.DoubleAtSlot31Refused := by
  refine ⟨fun i s => ⟨⟨fun h => ?_, fun h => exec_of_not_wellFormed h s⟩, fun r h => ?_⟩, fun rd rs1 rs2 => ?forms,
    fun s w i hw hi => ?stages⟩
  · rw [exec_eq_runAlone] at h
    exact (pathOf_eq_slot31_iff i).1 (runAlone_eq_refused h).1
  · rw [exec_eq_runAlone] at h
    exact (runAlone_eq_refused h).2
  case forms =>
    simp only [List.forall_mem_cons, List.not_mem_nil, false_imp_iff, implies_true, Instr.wellFormed,
      Bool.and_eq_false_iff, pairOk_eq_false_iff, or_assoc, and_self]
  case stages =>
    have hpath := pathOfWord_of_not_wellFormed hw hi
    refine ⟨fun fresh pc => decodeStage_slot31 (d := { iw := w, pc := pc }) hpath fresh s, ?_, ?_⟩
    · rintro e rfl
      exact executePhase2_slot31 hpath s
    · rintro hr hx rfl
      exact step_of_slot31 hr hx hpath

/-- Settles O24: the product or quotient fits where the rule asks for it, and the draw stands in elsewhere. -/
theorem integerMultiplyDivide : Obligations.IntegerMultiplyDivide := by
  refine ⟨?_, ?_, fun rd rs1 rs2 s => ⟨fun hlow hhigh => ?mult, fun h => ?_, fun hb hov => ?div, fun h => ?_, rfl, rfl⟩,
    rfl, rfl⟩
  case mult =>
    exact ⟨_, writesF_intMulDiv rfl (computeIntMulDiv_mult_of_fits hlow hhigh), toInt_ofInt_of_bounds hlow hhigh⟩
  case div =>
    have hquot := toInt_computeIntMulDiv_div hb hov
    refine ⟨_, (s.readF rs1).toInt.tmod (s.readF rs2).toInt, writesF_intMulDiv rfl rfl, ?_, ?_,
      tmod_eq_zero_or_sign _ _⟩
    · rw [hquot, Int.mul_tdiv_add_tmod]
    · rw [Int.natAbs_tmod]
      exact Nat.mod_lt _ (Int.natAbs_pos.2 hb)
  · exact rowR_one_of_decodeFunct1 fun w hfunct => by simp [decodeFunct1, hfunct]
  · exact rowR_one_of_decodeFunct1 fun w hfunct => by simp [decodeFunct1, hfunct]
  · exact writesF_intMulDiv rfl (computeIntMulDiv_mult_draw h)
  · exact writesF_intMulDiv rfl (computeIntMulDiv_div_draw h)

/-- Settles O25: the relation is one of the values, and a NaN leaves only "not equal". -/
theorem singleComparisons : Obligations.SingleComparisons := by
  refine ⟨?_, ?_, ?_, ?_, ?_, ?_, ?values⟩
  case values =>
    intro rs1 rs2 s
    exact ⟨writesFlag_single rfl (fpRelHolds_eq ..), writesFlag_single rfl (fpRelHolds_ne ..),
      writesFlag_single rfl (fpRelHolds_lt ..), writesFlag_single rfl (fpRelHolds_gt ..),
      writesFlag_single rfl (fpRelHolds_le ..), writesFlag_single rfl (fpRelHolds_ge ..),
      rfl, rfl, rfl, rfl, rfl, rfl, fun _ => rfl⟩
  all_goals exact rowR_one_of_decodeFunct1 fun w hfunct => by simp [decodeFunct1, hfunct]

/-- Settles O26: as for singles, on pairs that have a next slot. -/
theorem doubleComparisons : Obligations.DoubleComparisons := by
  refine ⟨?_, ?_, ?_, ?_, ?_, ?_, ?values⟩
  case values =>
    intro rs1 rs2 s hrs1 hrs2
    have his : ∀ r ∈ [rs1, rs2], r ≠ 31 := by simpa using ⟨hrs1, hrs2⟩
    have heq : Through (.eqd rs1 rs2) (.rel .eq .double) .cc (.pair rs1) (.pair rs2) := through_onPairs rfl his
    have hne : Through (.ned rs1 rs2) (.rel .ne .double) .cc (.pair rs1) (.pair rs2) := through_onPairs rfl his
    have hlt : Through (.ltd rs1 rs2) (.rel .lt .double) .cc (.pair rs1) (.pair rs2) := through_onPairs rfl his
    have hgt : Through (.gtd rs1 rs2) (.rel .gt .double) .cc (.pair rs1) (.pair rs2) := through_onPairs rfl his
    have hle : Through (.led rs1 rs2) (.rel .le .double) .cc (.pair rs1) (.pair rs2) := through_onPairs rfl his
    have hge : Through (.ged rs1 rs2) (.rel .ge .double) .cc (.pair rs1) (.pair rs2) := through_onPairs rfl his
    exact ⟨writesFlag_double heq (fpRelHolds_eq ..), writesFlag_double hne (fpRelHolds_ne ..),
      writesFlag_double hlt (fpRelHolds_lt ..), writesFlag_double hgt (fpRelHolds_gt ..),
      writesFlag_double hle (fpRelHolds_le ..), writesFlag_double hge (fpRelHolds_ge ..),
      heq, hne, hlt, hgt, hle, hge, fun _ _ => rfl⟩
  all_goals exact rowR_one_of_decodeFunct1 fun w hfunct => by simp [decodeFunct1, hfunct]

end

section
/-! Settles the statements about loads and about the faults of loads and stores (42_load_store.md, 20_memory.md). -/

namespace Sys2Proof.Machine

/-! ## What a narrow read gives (R63) -/

/-- A read of two bytes is the upper byte over the lower. -/
theorem ofNat_readLE_half (m : Memory) (a : Nat) :
    BitVec.ofNat 16 (readLE m a 2) = readByte m (a + 1) ++ readByte m a := by
  apply BitVec.eq_of_toNat_eq
  have hlow := (readByte m a).isLt
  have hhigh := (readByte m (a + 1)).isLt
  rw [BitVec.toNat_append, Nat.shiftLeft_eq, Nat.mul_comm, ← Nat.two_pow_add_eq_or_of_lt hlow, BitVec.toNat_ofNat]
  simp only [readLE]
  omega

/-- A read of four bytes is its bytes, the highest address on the left. -/
theorem ofNat_readLE_word (m : Memory) (a : Nat) :
    BitVec.ofNat 32 (readLE m a 4) =
      readByte m (a + 3) ++ readByte m (a + 2) ++ readByte m (a + 1) ++ readByte m a := by
  have hbyte (k : Nat) (hk : k < 4) : (BitVec.ofNat 32 (readLE m a 4)).extractLsb' (8 * k) 8 = readByte m (a + k) :=
    extractLsb'_readLE m a (by decide) hk
  generalize BitVec.ofNat 32 (readLE m a 4) = v at hbyte ⊢
  rw [← wordOfBytes_bytes v, wordOfBytes, hbyte 0 (by decide), hbyte 1 (by decide), hbyte 2 (by decide),
    hbyte 3 (by decide)]
  rfl

/-- Cutting the pattern of a number to fewer bits is the pattern of that width. -/
theorem setWidth_ofNat_64 {w : Nat} (hw : w ≤ 64) (n : Nat) : (BitVec.ofNat 64 n).setWidth w = BitVec.ofNat w n := by
  apply BitVec.eq_of_toNat_eq
  rw [BitVec.toNat_setWidth, BitVec.toNat_ofNat, BitVec.toNat_ofNat, Nat.mod_mod_of_dvd _ (Nat.pow_dvd_pow 2 hw)]

theorem ofNat_readLE_byte (m : Memory) (a : Nat) : BitVec.ofNat 8 (readLE m a 1) = readByte m a := by
  have hbyte := extractLsb'_readLE m a (w := 8) (k := 0) (n := 1) (by decide) (by decide)
  rw [Nat.mul_zero, BitVec.extractLsb'_eq_self] at hbyte
  exact hbyte

/-! ## Loads into one register or slot (R222) -/

/-- An integer load in range gives its register the extended value. -/
theorem writesReg_load {i : Instr} {rd base : Reg} {disp : BitVec 16} {n : Width} {sg : Bool} {s : State} {v : Word}
    (hp : pathOf i = .load (.r rd) base disp n sg)
    (hr : (effAddr (s.readReg base) disp).toNat + n.bytes ≤ s.cfg.memSize)
    (hv : lo32 (extendLoad n sg (BitVec.ofNat 64 (readLE s.mem (effAddr (s.readReg base) disp).toNat n.bytes))) = v) :
    WritesReg i s rd v := by
  rw [WritesReg, exec_load_of_memRead hp (memRead_of_inRange hr), ← hv]
  rfl

/-- A load in range to a slot gives it the pattern read. -/
theorem writesF_load {i : Instr} {rd base : Reg} {disp : BitVec 16} {n : Width} {sg : Bool} {s : State} {v : Word}
    (hp : pathOf i = .load (.fs rd) base disp n sg)
    (hr : (effAddr (s.readReg base) disp).toNat + n.bytes ≤ s.cfg.memSize)
    (hv : lo32 (extendLoad n sg (BitVec.ofNat 64 (readLE s.mem (effAddr (s.readReg base) disp).toNat n.bytes))) = v) :
    WritesF i s rd v := by
  rw [WritesF, exec_load_of_memRead hp (memRead_of_inRange hr), ← hv]
  rfl

theorem lo32_extendLoad_byte (sg : Bool) (m : Memory) (a : Nat) :
    lo32 (extendLoad .byte sg (BitVec.ofNat 64 (readLE m a 1))) =
      if sg then (readByte m a).signExtend 32 else (readByte m a).setWidth 32 := by
  rw [extendLoad, lo32_wide, setWidth_ofNat_64 (by decide), ofNat_readLE_byte]

theorem lo32_extendLoad_half (sg : Bool) (m : Memory) (a : Nat) :
    lo32 (extendLoad .half sg (BitVec.ofNat 64 (readLE m a 2))) =
      if sg then (readByte m (a + 1) ++ readByte m a).signExtend 32
      else (readByte m (a + 1) ++ readByte m a).setWidth 32 := by
  rw [extendLoad, lo32_wide, setWidth_ofNat_64 (by decide), ofNat_readLE_half]

theorem lo32_extendLoad_word (sg : Bool) (m : Memory) (a : Nat) :
    lo32 (extendLoad .word sg (BitVec.ofNat 64 (readLE m a 4))) =
      readByte m (a + 3) ++ readByte m (a + 2) ++ readByte m (a + 1) ++ readByte m a := by
  rw [extendLoad, lo32_wide, lo32, setWidth_ofNat_64 (by decide), ofNat_readLE_word]

/-! ## The double (R231) -/

/-- The low word of a double is that of the four lower bytes. -/
theorem lo32_readLE_double (m : Memory) (a : Nat) :
    lo32 (BitVec.ofNat 64 (readLE m a 8)) =
      readByte m (a + 3) ++ readByte m (a + 2) ++ readByte m (a + 1) ++ readByte m a := by
  rw [← ofNat_readLE_word, ← lo32_wide (lo32 _), wide_lo32_readLE, lo32, setWidth_ofNat_64 (by decide)]

/-- The high word of a double is that of the four upper bytes. -/
theorem hi32_readLE_double (m : Memory) (a : Nat) :
    hi32 (BitVec.ofNat 64 (readLE m a 8)) =
      readByte m (a + 7) ++ readByte m (a + 6) ++ readByte m (a + 5) ++ readByte m (a + 4) := by
  rw [← lo32_wide (hi32 _), wide_hi32_readLE, lo32, setWidth_ofNat_64 (by decide), ofNat_readLE_word]

/-- `LD` in range writes the pair and moves `PC` on; nothing else changes. -/
theorem exec_ld_inRange {rd rs1 : Reg} {imm : BitVec 16} {s : State} (hrd : rd ≠ 31)
    (hr : (effAddr (s.readReg rs1) imm).toNat + 8 ≤ s.cfg.memSize) :
    exec (.ld rd rs1 imm) s =
      .next (s.writeFD rd (BitVec.ofNat 64 (readLE s.mem (effAddr (s.readReg rs1) imm).toNat 8))).advance :=
  exec_load_of_memRead (pathOf_ld rs1 imm hrd) (memRead_of_inRange hr)

/-! ## Faults (R66, R224) -/

/-- A load faults exactly where it reaches past the end of memory. -/
theorem exec_load_fault_iff {i : Instr} {dst : Tag} {base : Reg} {disp : BitVec 16} {n : Width} {sg : Bool}
    (hp : pathOf i = .load dst base disp n sg) (s : State) :
    exec i s = .fault (.outOfRangeData (effAddr (s.readReg base) disp)) ↔
      s.cfg.memSize < (effAddr (s.readReg base) disp).toNat + n.bytes := by
  rw [exec_eq_runAlone, hp, runAlone, ← memRead_eq_none_iff s.cfg.memSize s.mem]
  cases memRead s.cfg.memSize s.mem (effAddr (s.readReg base) disp) n <;> simp

/-- A store faults exactly where it reaches past the end of memory. -/
theorem exec_store_fault_iff {i : Instr} {base : Reg} {disp : BitVec 16} {n : Width} {data : Source}
    (hp : pathOf i = .store base disp n data) (s : State) :
    exec i s = .fault (.outOfRangeData (effAddr (s.readReg base) disp)) ↔
      s.cfg.memSize < (effAddr (s.readReg base) disp).toNat + n.bytes := by
  rw [exec_eq_runAlone, hp, runAlone,
    ← memWrite_eq_none_iff s.cfg.memSize s.mem _ n (cutStore n (data.value s.readSlot))]
  cases memWrite s.cfg.memSize s.mem (effAddr (s.readReg base) disp) n (cutStore n (data.value s.readSlot)) <;> simp

/-- Only the paths of loads and stores fault, with their effective address. -/
theorem runAlone_eq_fault {p : Path} {s : State} {f : Fault} (h : runAlone p s = .fault f) :
    ∃ base disp, f = .outOfRangeData (effAddr (s.readReg base) disp) ∧
      ((∃ dst n sg, p = .load dst base disp n sg) ∨ ∃ n data, p = .store base disp n data) := by
  cases p <;> simp only [runAlone] at h
  case load dst base disp n sg => split at h <;> cases h; exact ⟨base, disp, rfl, .inl ⟨dst, n, sg, rfl⟩⟩
  case store base disp n data => split at h <;> cases h; exact ⟨base, disp, rfl, .inr ⟨n, data, rfl⟩⟩
  all_goals cases h

/-- A double form that is not refused has the path it is given. -/
theorem eq_of_onPairs_eq {is : List Reg} {p q : Path} (h : onPairs is p = q) (hq : q ≠ .slot31) : p = q := by
  rcases onPairs_eq is p with hp | hp
  · rw [← hp, h]
  · exact absurd (h.symm.trans hp) hq

/-- The instructions on the path of a load are the seven loads. -/
theorem pathOf_eq_load {i : Instr} {dst : Tag} {base : Reg} {disp : BitVec 16} {n : Width} {sg : Bool}
    (h : pathOf i = .load dst base disp n sg) :
    ∃ rd, i ∈ [.lb rd base disp, .lbu rd base disp, .lh rd base disp, .lhu rd base disp, .lw rd base disp,
      .lf rd base disp, .ld rd base disp] := by
  cases i
  case lb rd rs1 imm => cases h; exact ⟨rd, by simp⟩
  case lbu rd rs1 imm => cases h; exact ⟨rd, by simp⟩
  case lh rd rs1 imm => cases h; exact ⟨rd, by simp⟩
  case lhu rd rs1 imm => cases h; exact ⟨rd, by simp⟩
  case lw rd rs1 imm => cases h; exact ⟨rd, by simp⟩
  case lf rd rs1 imm => cases h; exact ⟨rd, by simp⟩
  case ld rd rs1 imm => cases eq_of_onPairs_eq h Path.noConfusion; exact ⟨rd, by simp⟩
  all_goals first | cases h | cases eq_of_onPairs_eq h Path.noConfusion

/-- The instructions on the path of a store are the five stores. -/
theorem pathOf_eq_store {i : Instr} {base : Reg} {disp : BitVec 16} {n : Width} {data : Source}
    (h : pathOf i = .store base disp n data) :
    ∃ rd, i ∈ [.sb rd base disp, .sh rd base disp, .sw rd base disp, .sf rd base disp, .sd rd base disp] := by
  cases i
  case sb rd rs1 imm => cases h; exact ⟨rd, by simp⟩
  case sh rd rs1 imm => cases h; exact ⟨rd, by simp⟩
  case sw rd rs1 imm => cases h; exact ⟨rd, by simp⟩
  case sf rd rs1 imm => cases h; exact ⟨rd, by simp⟩
  case sd rd rs1 imm => cases eq_of_onPairs_eq h Path.noConfusion; exact ⟨rd, by simp⟩
  all_goals first | cases h | cases eq_of_onPairs_eq h Path.noConfusion

end Sys2Proof.Machine

open Sys2Proof Sys2Proof.Machine

/-- Settles O28: the bytes read, extended as the load asks. -/
theorem integerLoads : Obligations.IntegerLoads := by
  refine ⟨?_, ?_, ?_, ?_, ?_, ?values⟩
  case values =>
    intro rd rs1 imm s
    exact ⟨fun hr => ⟨writesReg_load (n := .byte) rfl hr (lo32_extendLoad_byte ..),
        writesReg_load (n := .byte) rfl hr (lo32_extendLoad_byte ..)⟩,
      fun hr => ⟨writesReg_load (n := .half) rfl hr (lo32_extendLoad_half ..),
        writesReg_load (n := .half) rfl hr (lo32_extendLoad_half ..)⟩,
      fun hr => writesReg_load (n := .word) rfl hr (lo32_extendLoad_word ..)⟩
  all_goals exact fun w hop => by simp [decodeWord, decodeOpcode, hop]

/-- Settles O29: the patterns go to the slots as they were read. -/
theorem floatLoads : Obligations.FloatLoads := by
  refine ⟨?_, ?_, ?values⟩
  case values =>
    intro rd rs1 imm s
    refine ⟨fun hr => writesF_load (n := .word) rfl hr (lo32_extendLoad_word ..), fun hrd hr => ?_⟩
    refine ⟨_, exec_ld_inRange hrd hr, rfl, rfl, rfl, fun j hj hj' => ?_, ?_, ?_⟩
    · rw [readF_advance, readF_writeFD_ne s _ hj hj']
    · rw [readF_advance, readF_writeFD_low, lo32_readLE_double]
    · rw [readF_advance, readF_writeFD_high, hi32_readLE_double]
  all_goals exact fun w hop => by simp [decodeWord, decodeOpcode, hop]

/-- Settles O31: the access of the path decides, and only loads and stores have one. -/
theorem outOfRangeAccessFaults : Obligations.OutOfRangeAccessFaults := by
  refine ⟨fun rd rs1 imm s => ⟨?_, fun hrd => ?_⟩, fun i s f h => ?only⟩
  · simp only [List.forall_mem_cons, List.not_mem_nil, false_imp_iff, implies_true, and_true]
    exact ⟨exec_load_fault_iff (n := .byte) rfl s, exec_load_fault_iff (n := .byte) rfl s,
      exec_load_fault_iff (n := .half) rfl s, exec_load_fault_iff (n := .half) rfl s,
      exec_load_fault_iff (n := .word) rfl s, exec_load_fault_iff (n := .word) rfl s,
      exec_store_fault_iff (n := .byte) (data := .reg rd) rfl s,
      exec_store_fault_iff (n := .half) (data := .reg rd) rfl s,
      exec_store_fault_iff (n := .word) (data := .reg rd) rfl s,
      exec_store_fault_iff (n := .word) (data := .single rd) rfl s⟩
  · simp only [List.forall_mem_cons, List.not_mem_nil, false_imp_iff, implies_true, and_true]
    exact ⟨exec_load_fault_iff (pathOf_ld rs1 imm hrd) s, exec_store_fault_iff (pathOf_sd rs1 imm hrd) s⟩
  case only =>
    rw [exec_eq_runAlone] at h
    obtain ⟨base, disp, rfl, ⟨dst, n, sg, hp⟩ | ⟨n, data, hp⟩⟩ := runAlone_eq_fault h
    · obtain ⟨rd, hi⟩ := pathOf_eq_load hp
      refine ⟨.inl ?_, rd, base, disp, rfl, by simp only [List.mem_cons] at hi ⊢; tauto⟩
      simp only [List.mem_cons, List.not_mem_nil, or_false] at hi
      rcases hi with rfl | rfl | rfl | rfl | rfl | rfl | rfl <;> rfl
    · obtain ⟨rd, hi⟩ := pathOf_eq_store hp
      refine ⟨.inr ?_, rd, base, disp, rfl, by simp only [List.mem_cons] at hi ⊢; tauto⟩
      simp only [List.mem_cons, List.not_mem_nil, or_false] at hi
      rcases hi with rfl | rfl | rfl | rfl | rfl <;> rfl

end

section
/-! Settles the statements about what an instruction leaves unchanged and what it depends on (30_encoding.md
section 5). -/

namespace Sys2Proof.Machine

/-! ## The bytes a path stores (R64, R223) -/

/-- The bytes the path of a store writes; no other path stores. -/
def Path.storedRange (p : Path) (s : State) : Option (Word × Nat) :=
  match p with
  | .store base disp n _ => some (effAddr (s.readReg base) disp, n.bytes)
  | _ => none

/-- A double form that stores nothing stores nothing where it is refused. -/
theorem storedRange_onPairs {p : Path} {s : State} (is : List Reg) (h : p.storedRange s = none) :
    (onPairs is p).storedRange s = none := by
  rcases onPairs_eq is p with hp | hp
  · rw [hp, h]
  · rw [hp]
    rfl

/-- The path of a well-formed instruction stores the bytes of the instruction's own table. -/
theorem storedRange_pathOf {i : Instr} (h : i.wellFormed = true) (s : State) :
    (pathOf i).storedRange s = storedRange s i := by
  cases i
  case sd rd rs1 imm =>
    rw [pathOf_sd rs1 imm (by simpa [Instr.wellFormed, pairOk] using h)]
    rfl
  all_goals first | rfl | exact storedRange_onPairs _ rfl

/-- What `exec` completes is well formed. -/
theorem wellFormed_of_exec {i : Instr} {s t : State} (h : exec i s = .next t) : i.wellFormed = true := by
  refine wellFormed_of_pathOf fun hp => ?_
  rw [exec_eq_runAlone, hp] at h
  cases h

/-- Memory is the same but for the path of a store. -/
theorem runAlone_mem_of_storedRange {p : Path} {s t : State} (h : runAlone p s = .next t)
    (hp : p.storedRange s = none) : t.mem = s.mem := by
  rcases runAlone_mem h with hmem | ⟨base, disp, n, data, rfl, -⟩
  · exact hmem
  · cases hp

/-- Bytes outside those a path stores read as before. -/
theorem runAlone_readByte {p : Path} {s t : State} (h : runAlone p s = .next t) (hwf : Memory.wf s.mem = true)
    {a : Nat} (ha : ∀ ea n, p.storedRange s = some (ea, n) → a < ea.toNat ∨ ea.toNat + n ≤ a) :
    readByte t.mem a = readByte s.mem a := by
  rcases runAlone_mem h with hmem | ⟨base, disp, n, data, rfl, hw⟩
  · rw [hmem]
  · have hr := ha _ _ rfl
    have hin : (effAddr (s.readReg base) disp).toNat + n.bytes ≤ s.cfg.memSize := by
      by_contra hout
      rw [(memWrite_eq_none_iff ..).2 (by omega)] at hw
      cases hw
    rw [memWrite_of_inRange hin, Option.some.injEq] at hw
    rw [← hw]
    exact readByte_writeLE_outside _ _ _ _ _ hwf hr

/-- `storesTo` in terms of the path. -/
theorem outside_of_not_storesTo {i : Instr} {s : State} {a : Nat} (hi : i.wellFormed = true)
    (ha : ¬ storesTo i s a) (ea : Word) (n : Nat) (h : (pathOf i).storedRange s = some (ea, n)) :
    a < ea.toNat ∨ ea.toNat + n ≤ a := by
  rw [storedRange_pathOf hi] at h
  rw [storesTo, h] at ha
  omega

/-- No double form halts. -/
theorem isTrap_onPairs {p : Path} (is : List Reg) (h : p.isTrap = false) : (onPairs is p).isTrap = false := by
  rcases onPairs_eq is p with hp | hp <;> rw [hp]
  · exact h
  · rfl

/-- Only `TRAP` has the path of a `TRAP`. -/
theorem isTrap_pathOf {i : Instr} (h : i ≠ .trap) : (pathOf i).isTrap = false := by
  cases i
  case trap => exact absurd rfl h
  all_goals first | rfl | exact isTrap_onPairs _ rfl

/-! ## Two states that agree on the sources (R107) -/

/-- Two states agree on some slots. -/
def AgreeOn (slots : List Slot) (s s' : State) : Prop := ∀ sl ∈ slots, s'.readSlot sl = s.readSlot sl

theorem AgreeOn.value {src : Source} {s s' : State} (h : AgreeOn src.slots s s') :
    src.value s'.readSlot = src.value s.readSlot := src.value_congr h

/-- A write through a tag leaves states that agree on what the tag covers. -/
theorem agreeOn_writeTag (t : Tag) (v : DWord) (s s' : State) :
    AgreeOn t.slots (s.writeTag t v).advance (s'.writeTag t v).advance := by
  intro sl hsl
  obtain ⟨x, hx⟩ := Option.isSome_iff_exists.1 ((valueFor_isSome_iff { tag := t, value := v } sl).2 hsl)
  rw [readSlot_advance, readSlot_advance, readSlot_writeTag_of_valueFor s { tag := t, value := v } hx,
    readSlot_writeTag_of_valueFor s' { tag := t, value := v } hx]

/-- Two outcomes of one path agree: next states on its destination, `PC` and memory, or the same fault. -/
def OutcomesAgree (p : Path) (o o' : Host.Outcome State Fault Refusal) : Prop :=
  (∀ t, o = .next t → ∃ t', o' = .next t' ∧ t'.pc = t.pc ∧ t'.mem = t.mem ∧ AgreeOn p.dstSlots t t') ∧
  ∀ f, o = .fault f → o' = .fault f

theorem OutcomesAgree.next {p : Path} {t t' : State} (hpc : t'.pc = t.pc) (hmem : t'.mem = t.mem)
    (hdst : AgreeOn p.dstSlots t t') : OutcomesAgree p (.next t) (.next t') :=
  ⟨fun u hu => by cases hu; exact ⟨t', rfl, hpc, hmem, hdst⟩, fun f hf => by cases hf⟩

theorem OutcomesAgree.fault (p : Path) (f : Fault) : OutcomesAgree p (.fault f) (.fault f) :=
  ⟨fun u hu => (by cases hu), fun g hg => hg⟩

/-- What a path does depends on its sources, `PC`, memory and the configuration. -/
theorem runAlone_agree {p : Path} {s s' : State} (hp : p ≠ .slot31) (hsrc : AgreeOn p.srcs s s') (hpc : s'.pc = s.pc)
    (hmem : s'.mem = s.mem) (hcfg : s'.cfg = s.cfg) : OutcomesAgree p (runAlone p s) (runAlone p s') := by
  have hA : p.sourceA.value s'.readSlot = p.sourceA.value s.readSlot :=
    AgreeOn.value fun sl hsl => hsrc sl (List.mem_append_left _ hsl)
  have hB : p.sourceB.value s'.readSlot = p.sourceB.value s.readSlot :=
    AgreeOn.value fun sl hsl => hsrc sl (List.mem_append_right _ hsl)
  cases p
  case unit op dst a b =>
    simp only [Path.sourceA, Path.sourceB] at hA hB
    simp only [runAlone, hA, hB]
    exact .next (by simp [hpc]) (by simp [hmem]) (agreeOn_writeTag dst _ s s')
  case load dst base disp n sg =>
    have hbase : s'.readReg base = s.readReg base := hsrc (.r base) (by simp [Path.srcs, Path.sourceA, Source.slots])
    simp only [runAlone, hbase, hmem, hcfg]
    cases memRead s.cfg.memSize s.mem (effAddr (s.readReg base) disp) n with
    | none => exact .fault _ _
    | some v => exact .next (by simp [hpc]) (by simp [hmem]) (agreeOn_writeTag dst _ s s')
  case store base disp n data =>
    have hbase : s'.readReg base = s.readReg base := hsrc (.r base) (by simp [Path.srcs, Path.sourceA, Source.slots])
    simp only [Path.sourceB] at hB
    simp only [runAlone, hbase, hmem, hcfg, hB]
    cases memWrite s.cfg.memSize s.mem (effAddr (s.readReg base) disp) n (cutStore n (data.value s.readSlot)) with
    | none => exact .fault _ _
    | some m => exact .next (by simp [hpc]) rfl fun sl hsl => absurd hsl List.not_mem_nil
  case branch test disp =>
    simp only [Path.sourceA] at hA
    simp only [runAlone, hA]
    refine .next ?_ ?_ fun sl hsl => absurd hsl List.not_mem_nil <;> split <;> simp [hpc, hmem]
  case jump offset link =>
    simp only [runAlone, hpc]
    refine .next rfl (by cases link <;> simp [hmem]) fun sl hsl => ?_
    cases link with
    | false => exact absurd hsl List.not_mem_nil
    | true =>
      obtain rfl : sl = .r linkReg := by simpa [Path.dstSlots, Path.dst, Tag.slots] using hsl
      simp [State.readSlot]
  case trap => exact .next hpc hmem fun sl hsl => absurd hsl List.not_mem_nil
  case pass => exact .next (by simp [hpc]) hmem fun sl hsl => absurd hsl List.not_mem_nil
  case slot31 => exact absurd rfl hp

end Sys2Proof.Machine

open Sys2Proof Sys2Proof.Machine

/-- Settles O36: what the path of an instruction leaves, in the terms of the instruction's own table. -/
theorem architecturalFrame : Obligations.ArchitecturalFrame := by
  intro i s t h
  have hwf := wellFormed_of_exec h
  rw [exec_eq_runAlone] at h
  refine ⟨fun sl hsl => runAlone_readSlot h (by rwa [pathOf_dstSlots hwf]),
    fun hr => runAlone_mem_of_storedRange h (by rwa [storedRange_pathOf hwf]),
    fun hm a ha => runAlone_readByte h hm (outside_of_not_storesTo hwf ha), fun hi => ?_, runAlone_samePipeline h⟩
  rw [runAlone_halted h, isTrap_pathOf hi, Bool.or_false]

/-- Settles O37: the path reads its sources, `PC`, memory and the configuration, and nothing else. -/
theorem effectDependsOnSourcesOnly : Obligations.EffectDependsOnSourcesOnly := by
  intro i s s' hwf hsrc hpc hmem hcfg
  have hp : pathOf i ≠ .slot31 := by rw [ne_eq, pathOf_eq_slot31_iff, hwf]; exact Bool.noConfusion
  rw [← pathOf_srcs hwf] at hsrc
  rw [← pathOf_dstSlots hwf, exec_eq_runAlone, exec_eq_runAlone]
  exact runAlone_agree hp hsrc hpc hmem hcfg

end

section
/-! Settles the statements about the functional units (45_functional_units.md) and about what Execute leaves in `EX_MEM`
(46_pipeline_engine.md section 4). -/

namespace Sys2Proof.Machine

/-! ## One unit over several cycles (R296) -/

/-- Before its last cycle a unit has that many cycles fewer to go. -/
theorem tick_iterate_busy (a b : DWord) (op : UnitOp) (tag : Tag) {l n : Nat} (h : n < l) :
    FuncUnit.tick^[n] (.busy a b op l tag) = .busy a b op (l - n) tag := by
  induction n with
  | zero => rfl
  | succ n ih =>
    obtain ⟨m, hm⟩ : ∃ m, l - n = m + 2 := ⟨l - n - 2, by omega⟩
    rw [Function.iterate_succ_apply', ih (by omega), hm, tick_busy]
    congr 1
    omega

theorem tick_iterate_idle (n : Nat) : FuncUnit.tick^[n] .idle = .idle := Function.iterate_fixed tick_idle n

/-- From the tick that ends its latency on a unit is Done with its result. -/
theorem tick_iterate_done (a b : DWord) (op : UnitOp) (tag : Tag) {l : Nat} (h : 1 ≤ l) (n : Nat) :
    FuncUnit.tick^[l + n] (.busy a b op l tag) = .done (compute op a b) tag := by
  obtain ⟨m, rfl⟩ : ∃ m, l = m + 1 := ⟨l - 1, by omega⟩
  have hlast : FuncUnit.tick^[m + 1] (.busy a b op (m + 1) tag) = .done (compute op a b) tag := by
    rw [Function.iterate_succ_apply', tick_iterate_busy a b op tag (l := m + 1) (by omega), Nat.add_sub_cancel_left,
      tick_last]
  rw [Nat.add_comm, Function.iterate_add_apply, hlast]
  exact Function.iterate_fixed (tick_done ..) n

/-! ## Pools (R299, R302, R306) -/

/-- No unit is Idle exactly where there is no first Idle one. -/
theorem firstIdle_eq_none_iff (p : List FuncUnit) : firstIdle p = none ↔ ∀ u ∈ p, u ≠ .idle := by
  induction p with
  | nil => simp [firstIdle]
  | cons u us ih => cases u <;> simp [firstIdle, ih]

/-- The lowest Done unit gives its result and becomes Idle. -/
theorem unloadPool_of_first_done {p : List FuncUnit} {k : Nat} {v : DWord} {t : Tag} (hk : p[k]? = some (.done v t))
    (hfirst : ∀ j < k, ∀ v' t', p[j]? ≠ some (.done v' t')) :
    unloadPool p = (some { tag := t, value := v }, p.set k .idle) := by
  cases hrec : (unloadPool p).1 with
  | none => exact absurd rfl ((unloadPool_eq_none_iff p).1 hrec _ (List.mem_of_getElem? hk) v t)
  | some rec =>
    obtain ⟨j, hj, hbefore, hset⟩ := unloadPool_eq_some hrec
    obtain rfl : j = k := by
      rcases Nat.lt_trichotomy j k with hlt | heq | hlt
      · exact absurd hj (hfirst j hlt _ _)
      · exact heq
      · exact absurd hk (hbefore k hlt v t)
    obtain ⟨rfl, rfl⟩ : rec.value = v ∧ rec.tag = t := by simpa using hj.symm.trans hk
    exact Prod.ext hrec hset

theorem unloadPool_of_no_done {p : List FuncUnit} (h : ∀ u ∈ p, ∀ v t, u ≠ .done v t) : unloadPool p = (none, p) :=
  have hnone := (unloadPool_eq_none_iff p).2 h
  Prod.ext hnone (unloadPool_of_none p hnone)

/-- Of two Done units at different places one comes first, and no later one is Done. -/
theorem done_unique {cfg : Configuration} {k : UnitClass} {p : List FuncUnit} (h : poolOk cfg k p = true) {i j : Nat}
    {v v' : DWord} {t t' : Tag} (hi : (tickPool p)[i]? = some (.done v t)) (hj : (tickPool p)[j]? = some (.done v' t')) :
    i = j := by
  have hpair := List.pairwise_iff_getElem.1 (tickPool_done_unique h)
  obtain ⟨hil, hie⟩ := List.getElem?_eq_some_iff.1 hi
  obtain ⟨hjl, hje⟩ := List.getElem?_eq_some_iff.1 hj
  rcases Nat.lt_trichotomy i j with hlt | heq | hlt
  · exact absurd hje (hpair i j hil hjl hlt v t hie v' t')
  · exact heq
  · exact absurd hie (hpair j i hjl hil hlt v' t' hje v t)

/-- Between cycles no unit of a sound pool is Done (R291). -/
theorem not_done_of_poolOk {cfg : Configuration} {k : UnitClass} {p : List FuncUnit} (h : poolOk cfg k p = true) :
    ∀ u ∈ p, ∀ v t, u ≠ .done v t := by
  obtain ⟨-, hunits, -⟩ := (poolOk_iff ..).1 h
  rintro u hu v t rfl
  cases hunits _ hu

/-! ## Execute phase 2 by the decoded word (R353) -/

theorem executePhase2_of_decodeWord {e : IdEx} {i : Instr} (h : decodeWord e.iw = some i) (s : State) :
    executePhase2 e s = issuePath (pathOf i) e s := by
  rw [executePhase2, pathOfWord_of_decodeWord h]

theorem executePhase2_load {e : IdEx} {i : Instr} {dst : Tag} {base : Reg} {disp : BitVec 16} {n : Width} {sg : Bool}
    (s : State) (hp : pathOf i = .load dst base disp n sg) (h : decodeWord e.iw = some i) :
    executePhase2 e s = .taken (s.setMarkers dst.slots true) { plainExMem e with
      acc := .read dst (BitVec.ofInt 32 ((lo32 e.a).toNat + disp.toInt)) n sg } := by
  rw [executePhase2_of_decodeWord h, hp, issuePath, effAddr_eq_ofInt]

theorem executePhase2_store {e : IdEx} {i : Instr} {base : Reg} {disp : BitVec 16} {n : Width} {data : Source}
    (s : State) (hp : pathOf i = .store base disp n data) (h : decodeWord e.iw = some i) :
    executePhase2 e s = .taken s { plainExMem e with
      acc := .write (BitVec.ofInt 32 ((lo32 e.a).toNat + disp.toInt)) n
        (BitVec.ofNat 64 (e.b.toNat % 2 ^ (8 * n.bytes))) } := by
  rw [executePhase2_of_decodeWord h, hp, issuePath, effAddr_eq_ofInt, cutStore_eq_ofNat_mod]

theorem executePhase2_branch {e : IdEx} {i : Instr} {test : BranchTest} {disp : BitVec 16} (s : State)
    (hp : pathOf i = .branch test disp) (h : decodeWord e.iw = some i) :
    executePhase2 e s = .taken s { plainExMem e with
      aluout := BitVec.ofInt 32 (e.pc.toNat + 4 + disp.toInt), cond := e.cond } := by
  rw [executePhase2_of_decodeWord h, hp, issuePath, branchTarget_eq_ofInt]

theorem executePhase2_jump {e : IdEx} {i : Instr} {offset : BitVec 26} {link : Bool} (s : State)
    (hp : pathOf i = .jump offset link) (h : decodeWord e.iw = some i) :
    executePhase2 e s = .taken (if link then s.setMarker (.r linkReg) true else s) { plainExMem e with
      aluout := BitVec.ofInt 32 (e.pc.toNat + 4 + offset.toInt), cond := true } := by
  rw [executePhase2_of_decodeWord h, hp, issuePath, jumpTarget_eq_ofInt]

/-- The only instruction of class Trap is `TRAP`. -/
theorem eq_trap_of_class {i : Instr} (h : i.instrClass = .trap) : i = .trap := by
  cases i <;> first | rfl | simp [Instr.instrClass] at h

/-- Trap, Nop and Unimplemented words leave nothing but themselves. -/
theorem executePhase2_of_class {e : IdEx} (h : classOf e.iw ∈ [InstrClass.trap, .nop, .unimplemented]) (s : State) :
    executePhase2 e s = .taken s (plainExMem e) := by
  cases hw : decodeWord e.iw with
  | none => exact executePhase2_pass (pathOfWord_of_unassigned hw) s
  | some i =>
    rw [classOf, hw] at h
    rcases List.mem_cons.1 h with htrap | hrest
    · rw [executePhase2_of_decodeWord hw, eq_trap_of_class htrap]
      rfl
    · have hclass : i.instrClass = .nop ∨ i.instrClass = .unimplemented := by simpa using hrest
      exact executePhase2_pass ((pathOfWord_of_decodeWord hw).trans (pathOf_eq_pass_of_class hclass)) s

/-! ## Dispatch (R353, R354, R356) -/

/-- Dispatch to the first Idle unit of the class. -/
theorem issuePath_of_firstIdle {op : UnitOp} {dst : Tag} {a b : Source} {e : IdEx} {s : State} {k : Nat}
    (h : firstIdle (s.pool op.unitClass) = some k) :
    issuePath (.unit op dst a b) e s = .taken ((s.setPool op.unitClass
      ((s.pool op.unitClass).set k (.busy e.a e.b op (latency s.cfg op.unitClass) dst))).setMarkers dst.slots true)
      (plainExMem e) := by
  rw [issuePath, issueUnit_eq, h]

theorem issuePath_of_no_idle {op : UnitOp} {dst : Tag} {a b : Source} {e : IdEx} {s : State}
    (h : firstIdle (s.pool op.unitClass) = none) : issuePath (.unit op dst a b) e s = .noUnit :=
  (issuePath_eq_noUnit_iff ..).2 ⟨op, dst, a, b, rfl, h⟩

end Sys2Proof.Machine

open Sys2Proof Sys2Proof.Machine

/-- Settles O50: the dispatch replaces one unit of one pool and sets markers. -/
theorem dispatchTakesFirstIdleUnit : Obligations.DispatchTakesFirstIdleUnit := by
  refine ⟨fun e s op dst a b hp => ⟨fun k hk hfirst => ?_, fun hnone => ?_⟩, fun _ => ⟨rfl, rfl, rfl, rfl⟩,
    fun e s h => ?_⟩
  · have hfree : firstIdle (s.pool op.unitClass) = some k := (firstIdle_eq_some_iff ..).2 ⟨hk, hfirst⟩
    obtain ⟨hlt, -⟩ := List.getElem?_eq_some_iff.1 hk
    refine ⟨_, by rw [executePhase2, hp]; exact issuePath_of_firstIdle hfree, ?_, fun j hj => ?_, fun c hc => ?_,
      fun sl => ?_, fun sl => by simp, by simp, by simp⟩
    · rw [State.setMarkers_pool, State.pool_setPool_same, List.getElem?_set_self hlt]
    · rw [State.setMarkers_pool, State.pool_setPool_same, List.getElem?_set_ne (Ne.symm hj)]
    · rw [State.setMarkers_pool, State.pool_setPool_ne _ _ hc]
    · rw [marker_setMarkers, marker_setPool]
      by_cases hsl : sl ∈ dst.slots <;> simp [hsl]
  · rw [executePhase2, hp]
    exact issuePath_of_no_idle ((firstIdle_eq_none_iff _).2 hnone)
  · obtain ⟨op, dst, a, b, hp, -⟩ := (issuePath_eq_noUnit_iff ..).1 h
    exact ⟨op, dst, a, b, hp⟩

/-- Settles O51: each row of the table by the path of its instruction. -/
theorem executeFormsAccessAndTarget : Obligations.ExecuteFormsAccessAndTarget := by
  intro e s rd rs1 imm offset
  have hpair (hwf : pairOk rd = true) : rd ≠ 31 := by simpa [pairOk] using hwf
  refine ⟨?_, ?_, ?_, executePhase2_jump (link := false) s rfl, executePhase2_jump (link := true) s rfl,
    fun h => executePhase2_of_class h s⟩
  · simp only [List.forall_mem_cons, List.not_mem_nil, false_imp_iff, implies_true, and_true]
    exact ⟨fun h _ => executePhase2_load s rfl h, fun h _ => executePhase2_load s rfl h,
      fun h _ => executePhase2_load s rfl h, fun h _ => executePhase2_load s rfl h,
      fun h _ => executePhase2_load s rfl h, fun h _ => executePhase2_load s rfl h,
      fun h hwf => executePhase2_load s (pathOf_ld rs1 imm (hpair hwf)) h⟩
  · simp only [List.forall_mem_cons, List.not_mem_nil, false_imp_iff, implies_true, and_true]
    exact ⟨fun h _ => executePhase2_store (data := .reg rd) s rfl h,
      fun h _ => executePhase2_store (data := .reg rd) s rfl h,
      fun h _ => executePhase2_store (data := .reg rd) s rfl h,
      fun h _ => executePhase2_store (data := .single rd) s rfl h,
      fun h hwf => executePhase2_store s (pathOf_sd rs1 imm (hpair hwf)) h⟩
  · simp only [List.forall_mem_cons, List.not_mem_nil, false_imp_iff, implies_true, and_true]
    exact ⟨executePhase2_branch (test := .zero rs1) s rfl, executePhase2_branch (test := .nonZero rs1) s rfl,
      executePhase2_branch (test := .flagTrue) s rfl, executePhase2_branch (test := .flagFalse) s rfl⟩

/-- Settles O52, by iteration of the tick. -/
theorem unitResultAfterLatency : Obligations.UnitResultAfterLatency := by
  refine ⟨fun tag a b op l hl => ⟨_, rfl, fun n hn => tick_iterate_busy a b op tag hn, tick_iterate_done a b op tag hl⟩,
    tick_iterate_idle, fun _ _ => rfl, fun u hu => ?_, fun u tag a b op l hu => ?_⟩
  · cases u with
    | done v t => exact absurd rfl (hu v t)
    | idle => rfl
    | busy => rfl
  · cases u with
    | idle => exact absurd rfl hu
    | done => rfl
    | busy => rfl

/-- Settles O53: no two units of a sound pool end together, and the one that ends is unloaded. -/
theorem atMostOneResultPerClass : Obligations.AtMostOneResultPerClass := by
  intro s k hok
  obtain ⟨⟨-, -, hpools⟩, -, -⟩ := (machineOk_iff s).1 hok
  obtain ⟨hunloaded, -, -⟩ := poolOk_tick_unload (hpools k)
  exact ⟨fun i j v v' t t' hi hj => done_unique (hpools k) hi hj, not_done_of_poolOk hunloaded⟩

/-- Settles O54. -/
theorem unloadTakesLowestDone : Obligations.UnloadTakesLowestDone := fun _ =>
  ⟨fun _ _ _ hk hfirst => unloadPool_of_first_done hk hfirst, unloadPool_of_no_done⟩

end

section
/-! Settles the statements about what one step of a running machine does to the latches, the markers and the registers,
and about how a step ends without a next state (46_pipeline_engine.md, 60_exceptions.md). -/

namespace Sys2Proof.Machine

/-! ## A step from its stages (R370) -/

/-- Where Execute takes its instruction, the rest of the cycle is Decode and Fetch. -/
theorem step_of_taken {s s1 s3 : State} {lmd : Option Record} {x : ExMem} (hr : Running s)
    (hm : memoryStage s = .ok (s1, lmd))
    (hi : issuePath (pathOfWord (executeInput s).iw) (executeInput s) (executePhase1 (writebackStage s1)).1 =
      .taken s3 x) :
    step s = decodeAndFetch (nextMemWb s.exMem lmd (executePhase1 (writebackStage s1)).2)
      (freshRecords lmd (executePhase1 (writebackStage s1)).2) x (decodeInput s) s3 := by
  rw [step, cycle, not_stopped_of_running hr, if_neg Bool.false_ne_true, runningCycle, hm]
  simp only [issueAndBelow, executePhase2, hi]

theorem decodeAndFetch_of_ok {w : MemWb} {fresh : List Record} {x : ExMem} {d : IfId} {s : State} {y : IdEx} {z : IfId}
    (hd : decodeStage fresh d s = some y) (hf : fetchStage s = .ok z) :
    decodeAndFetch w fresh x d s = .next (endFetched w x y z s) := by
  simp only [decodeAndFetch, hd, hf]

theorem decodeAndFetch_of_error {w : MemWb} {fresh : List Record} {x : ExMem} {d : IfId} {s : State} {y : IdEx}
    {f : Fault} (hd : decodeStage fresh d s = some y) (hf : fetchStage s = .error f) :
    decodeAndFetch w fresh x d s = .fault f := by
  simp only [decodeAndFetch, hd, hf]

/-! ## What the latches hold under a flush and without one (R364) -/

theorem executeInput_of_no_redirect {s : State} (h : s.exMem.cond = false) : executeInput s = s.idEx := by
  rw [executeInput, h, if_neg Bool.false_ne_true]

theorem decodeInput_of_no_redirect {s : State} (h : s.exMem.cond = false) : decodeInput s = s.ifId := by
  rw [decodeInput, h, if_neg Bool.false_ne_true]

theorem executeInput_of_redirect {s : State} (h : s.exMem.cond = true) : executeInput s = nopIdEx := by
  rw [executeInput, if_pos h]

theorem decodeInput_of_redirect {s : State} (h : s.exMem.cond = true) : decodeInput s = nopIfId := by
  rw [decodeInput, if_pos h]

/-- Execute takes a bubble and passes a bubble on. -/
theorem issuePath_nop (s : State) : issuePath (pathOfWord nopIdEx.iw) nopIdEx s = .taken s nopExMem := rfl

/-- Decode makes a bubble of a bubble. -/
theorem decodeStage_nop (fresh : List Record) (s : State) : decodeStage fresh nopIfId s = some nopIdEx := rfl

/-- Under a flush a step with no access pending is a fetch from the target. -/
theorem step_of_redirect {s : State} (hr : Running s) (hc : s.exMem.cond = true) (ha : s.exMem.acc = .none) :
    step s = decodeAndFetch (nextMemWb s.exMem none (executePhase1 (writebackStage (redirect s))).2)
      (freshRecords none (executePhase1 (writebackStage (redirect s))).2) nopExMem nopIfId
      (executePhase1 (writebackStage (redirect s))).1 := by
  have hm : memoryStage s = .ok (redirect s, none) := by rw [memoryStage, ha]
  rw [step_of_taken hr hm (by rw [executeInput_of_redirect hc]; exact issuePath_nop _), decodeInput_of_redirect hc]

/-- `PC` under a flush, when Fetch reads. -/
theorem fetchPc_of_redirect {s : State} (hc : s.exMem.cond = true) :
    (executePhase1 (writebackStage (redirect s))).1.pc = s.exMem.aluout := by
  simp [redirect, hc]

/-! ## The records a cycle makes (R348, R352) -/

/-- The fresh records are those of the new `MEM_WB`. -/
theorem CycleTop.mem_fresh_iff {s s2 : State} {w : MemWb} {fresh : List Record} (h : CycleTop s s2 w fresh)
    (rec : Record) : rec ∈ fresh ↔ rec ∈ w.records := by
  obtain ⟨s1, lmd, -, -, rfl, rfl⟩ := h.ex
  simp only [freshRecords, MemWb.records, nextMemWb, List.mem_append]
  tauto

theorem freshValue_eq_some {fresh : List Record} {sl : Slot} {v : Word} (h : freshValue fresh sl = some v) :
    ∃ rec ∈ fresh, rec.valueFor sl = some v := by
  induction fresh with
  | nil => cases h
  | cons rec rest ih =>
    rw [freshValue] at h
    split at h
    · next v' hv =>
      cases h
      exact ⟨rec, List.mem_cons_self, hv⟩
    · obtain ⟨r, hr, hv⟩ := ih h
      exact ⟨r, List.mem_cons_of_mem _ hr, hv⟩

theorem freshValue_eq_none_iff (fresh : List Record) (sl : Slot) :
    freshValue fresh sl = none ↔ ∀ rec ∈ fresh, sl ∉ rec.tag.slots := by
  induction fresh with
  | nil => simp [freshValue]
  | cons rec rest ih =>
    rw [freshValue, List.forall_mem_cons, ← ih, ← valueFor_isSome_iff]
    cases rec.valueFor sl <;> simp

/-- A slot is not ready exactly where its marker is set and no fresh record is forwarded to it (R348). -/
theorem resolveSlot_eq_none_iff (fresh : List Record) (s : State) (sl : Slot) :
    resolveSlot fresh s sl = none ↔
      s.marker sl = true ∧ (s.cfg.forwarding = false ∨ ∀ rec ∈ fresh, sl ∉ rec.tag.slots) := by
  rw [resolveSlot, ← freshValue_eq_none_iff]
  cases s.marker sl <;> cases s.cfg.forwarding <;> simp

/-- An instruction is not ready for one of three reasons (R348, R349). -/
theorem pathReady_eq_false_iff (fresh : List Record) (s : State) (p : Path) :
    pathReady fresh s p = false ↔
      (∃ sl ∈ p.srcs, s.marker sl = true ∧ (s.cfg.forwarding = false ∨ ∀ rec ∈ fresh, sl ∉ rec.tag.slots)) ∨
      ∃ sl ∈ p.dstSlots, s.marker sl = true := by
  simp only [pathReady, Bool.and_eq_false_iff, List.all_eq_false, Bool.not_eq_true, Option.isSome_eq_false_iff,
    Option.isNone_iff_eq_none, resolveSlot_eq_none_iff, Bool.not_eq_false']

/-- What Decode stages for a slot of a ready instruction: the register file's value, or a fresh record's. -/
theorem stagedSlot_of_pathReady {fresh : List Record} {s : State} {p : Path} (h : pathReady fresh s p = true) {sl : Slot}
    (hsl : sl ∈ p.srcs) :
    (s.marker sl = false ∧ stagedSlot fresh s sl = s.readSlot sl) ∨
    (s.marker sl = true ∧ s.cfg.forwarding = true ∧ ∃ rec ∈ fresh, rec.valueFor sl = some (stagedSlot fresh s sl)) := by
  simp only [pathReady, Bool.and_eq_true, List.all_eq_true] at h
  obtain ⟨v, hv⟩ := Option.isSome_iff_exists.1 (h.1 sl hsl)
  have hstaged : stagedSlot fresh s sl = v := by rw [stagedSlot, hv, Option.getD_some]
  rw [resolveSlot] at hv
  rw [hstaged]
  split at hv
  · next hclear => exact .inl ⟨hclear, (Option.some.inj hv).symm⟩
  · next hset =>
    split at hv
    · next hfwd => exact .inr ⟨by simpa using hset, hfwd, freshValue_eq_some hv⟩
    · cases hv

/-! ## What the stages after Execute phase 1 leave -/

@[simp] theorem endExecuteStall_pool (w : MemWb) (s : State) (k : UnitClass) :
    (endExecuteStall w s).pool k = s.pool k := by cases k <;> rfl

@[simp] theorem endDecodeStall_pool (w : MemWb) (x : ExMem) (s : State) (k : UnitClass) :
    (endDecodeStall w x s).pool k = s.pool k := by cases k <;> rfl

@[simp] theorem endFetched_pool (w : MemWb) (x : ExMem) (y : IdEx) (z : IfId) (s : State) (k : UnitClass) :
    (endFetched w x y z s).pool k = s.pool k := by cases k <;> rfl

/-- A dispatch changes a unit of a pool, not their number. -/
theorem issuePath_pool_length {p : Path} {e : IdEx} {s s' : State} {x : ExMem} (h : issuePath p e s = .taken s' x)
    (k : UnitClass) : (s'.pool k).length = (s.pool k).length := by
  rcases issuePath_taken h with ⟨rfl | ⟨op, dst, a, b, j, -, -, rfl⟩, -⟩
  · rw [State.setMarkers_pool]
  · rw [State.setMarkers_pool]
    by_cases hk : k = op.unitClass
    · rw [hk, State.pool_setPool_same, List.length_set]
    · rw [State.pool_setPool_ne _ _ hk]

/-- The registers, memory, flag and status of a step's answer are those after the stages of every cycle; the later
stages write latches, markers, a unit and `PC`. -/
theorem step_registers {s t : State} (hr : Running s) (h : step s = .next t) :
    ∃ s2 fresh, CycleTop s s2 t.memWb fresh ∧ t.cfg = s2.cfg ∧ t.regs = s2.regs ∧ t.fregs = s2.fregs ∧
      t.fps = s2.fps ∧ t.halted = s2.halted ∧ t.fatal = s2.fatal ∧
      (∀ sl, t.marker sl = true → sl ∈ (pathOfWord (executeInput s).iw).dstSlots ∨ s2.marker sl = true) ∧
      ∀ k, (t.pool k).length = (s2.pool k).length := by
  obtain ⟨s2, w, fresh, htop, hcase⟩ := step_cases_of_running hr h
  rcases hcase with ⟨-, rfl⟩ | ⟨s3, x, hi, hcase⟩
  · exact ⟨s2, fresh, htop, rfl, rfl, rfl, rfl, rfl, rfl, fun sl hsl => .inr hsl, fun k => by simp⟩
  · obtain ⟨hcfg, hregs, hfregs, hfps, -, -, -, -, -, -, hhalted, hfatal⟩ := issuePath_frame hi
    have hmark (sl : Slot) (hsl : s3.marker sl = true) :
        sl ∈ (pathOfWord (executeInput s).iw).dstSlots ∨ s2.marker sl = true := by
      rw [issuePath_marker hi] at hsl
      simpa using hsl
    have hlen (k : UnitClass) : (s3.pool k).length = (s2.pool k).length := issuePath_pool_length hi k
    rcases hcase with ⟨-, rfl⟩ | ⟨y, z, -, -, rfl⟩
    · exact ⟨s2, fresh, htop, hcfg, hregs, hfregs, hfps, hhalted, hfatal, hmark, fun k => by simp [hlen]⟩
    · exact ⟨s2, fresh, htop, hcfg, hregs, hfregs, hfps, hhalted, hfatal, hmark, fun k => by simp [hlen]⟩

/-! ## How a step ends without a next state (R402, R403) -/

theorem running_of_not_stopped {s : State} (h : (s.halted || s.fatal) = false) : Running s :=
  Bool.or_eq_false_iff.1 h

/-- A fault of a step is one of Memory or one of Fetch. -/
theorem step_fault {s : State} {f : Fault} (h : step s = .fault f) :
    Running s ∧ (memoryStage s = .error f ∨
      (f = .outOfRangeFetch (fetchBase s) ∧ s.cfg.memSize < (fetchBase s).toNat + 4)) := by
  obtain ⟨hrun, hm | ⟨s2, w, fresh, s3, x, y, htop, hi, -, hf⟩⟩ := step_fault_cases h
  · exact ⟨running_of_not_stopped hrun, .inl hm⟩
  · obtain ⟨hcfg, -⟩ := htop.frame
    obtain ⟨hcfg', -, -, -, hpc, -⟩ := issuePath_frame hi
    have hbase : s3.pc = fetchBase s := hpc.trans htop.pc_eq_fetchBase
    have hfault := (fetchStage_eq_error_iff ..).1 hf
    rw [hbase, hcfg', hcfg] at hfault
    exact ⟨running_of_not_stopped hrun, .inr hfault⟩

/-- The Memory stage raises no fetch fault and no precondition. -/
theorem memoryStage_ne_error {s : State} {f : Fault} (hf : ∀ addr, f ≠ .outOfRangeData addr) :
    memoryStage s ≠ .error f := by
  intro h
  obtain ⟨addr, rfl, -⟩ := (memoryStage_eq_error_iff ..).1 h
  exact hf addr rfl

/-! ## Writeback (R335 to R337) -/

theorem commitOpt_eq_foldl (s : State) (o : Option Record) : s.commitOpt o = o.toList.foldl State.commit s := by
  cases o <;> rfl

/-- Writeback commits the records one after the other. -/
theorem commitRecords_eq_foldl (s : State) : commitRecords s = s.memWb.records.foldl State.commit s := by
  simp only [commitRecords, commitOpt_eq_foldl, MemWb.records, List.foldl_append]

/-- Commits that do not cover a slot leave it. -/
theorem foldl_commit_frame {l : List Record} {sl : Slot} (h : ∀ rec ∈ l, sl ∉ rec.tag.slots) (s : State) :
    (l.foldl State.commit s).readSlot sl = s.readSlot sl := by
  induction l generalizing s with
  | nil => rfl
  | cons rec rest ih =>
    rw [List.forall_mem_cons] at h
    rw [List.foldl_cons, ih h.2, (commit_frame s rec h.1).1]

/-- Where no two records cover a slot, it holds the value of the record that does. -/
theorem foldl_commit_covered {l : List Record} {sl : Slot} (hone : covers (l.map Record.tag) sl ≤ 1) {rec : Record}
    (hrec : rec ∈ l) {v : Word} (hv : rec.valueFor sl = some v) (s : State) :
    (l.foldl State.commit s).readSlot sl = v := by
  induction l generalizing s with
  | nil => cases hrec
  | cons r rest ih =>
    rw [List.map_cons, covers_cons] at hone
    rw [List.foldl_cons]
    rcases List.mem_cons.1 hrec with rfl | hrec
    · have hcount : rec.tag.slots.count sl = 1 := by
        rw [count_slots, if_pos ((valueFor_isSome_iff rec sl).1 (by rw [hv]; rfl))]
      have hrest : covers (rest.map Record.tag) sl = 0 := by omega
      rw [covers_eq_zero_iff, List.forall_mem_map] at hrest
      rw [foldl_commit_frame hrest, (commit_covered s rec hv).1]
    · exact ih (by omega) hrec (s.commit r)

/-- Two states hold the same registers, slots and flag. -/
structure SameFiles (s t : State) : Prop where
  regs : t.regs = s.regs
  fregs : t.fregs = s.fregs
  fps : t.fps = s.fps

theorem SameFiles.trans {s t u : State} (h : SameFiles s t) (h' : SameFiles t u) : SameFiles s u :=
  ⟨h'.regs.trans h.regs, h'.fregs.trans h.fregs, h'.fps.trans h.fps⟩

theorem SameFiles.readSlot {s t : State} (h : SameFiles s t) (sl : Slot) : t.readSlot sl = s.readSlot sl := by
  obtain ⟨hregs, hfregs, hfps⟩ := h
  cases sl <;> simp only [State.readSlot, State.readReg, State.readF, hregs, hfregs, hfps]

theorem SameFiles.writeReg {s t : State} (h : SameFiles s t) (i : Reg) (v : Word) :
    SameFiles (s.writeReg i v) (t.writeReg i v) := by
  obtain ⟨hregs, hfregs, hfps⟩ := h
  exact ⟨by rw [State.writeReg_regs, State.writeReg_regs, hregs], hfregs, hfps⟩

theorem SameFiles.writeTag {s t : State} (h : SameFiles s t) (tag : Tag) (v : DWord) :
    SameFiles (s.writeTag tag v) (t.writeTag tag v) := by
  cases tag with
  | r i => exact h.writeReg i (lo32 v)
  | fs i => exact ⟨h.regs, by simp [State.writeTag, h.fregs], h.fps⟩
  | fd i => exact ⟨h.regs, by simp [State.writeTag, h.fregs], h.fps⟩
  | cc => exact ⟨h.regs, h.fregs, rfl⟩

theorem sameFiles_setMarkers (s : State) (l : List Slot) (b : Bool) : SameFiles s (s.setMarkers l b) :=
  ⟨by simp, by simp, by simp⟩

theorem SameFiles.symm {s t : State} (h : SameFiles s t) : SameFiles t s := ⟨h.regs.symm, h.fregs.symm, h.fps.symm⟩

theorem sameFiles_commit (s : State) (rec : Record) : SameFiles (s.writeTag rec.tag rec.value) (s.commit rec) :=
  sameFiles_setMarkers _ _ _

theorem SameFiles.foldl_commit {s t : State} (h : SameFiles s t) (l : List Record) :
    SameFiles (l.foldl State.commit s) (l.foldl State.commit t) := by
  induction l generalizing s t with
  | nil => exact h
  | cons rec rest ih =>
    exact ih (((sameFiles_commit s rec).symm.trans (h.writeTag rec.tag rec.value)).trans (sameFiles_commit t rec))

/-- The files after Writeback: the records committed, and then the link register where a `JAL` is in the latch. -/
theorem sameFiles_writebackStage (s : State) :
    SameFiles (if (pathOfWord s.memWb.iw).isLink then (commitRecords s).writeReg linkReg (s.memWb.pc + 4)
      else commitRecords s) (writebackStage s) := by
  unfold writebackStage linkWriteback
  split
  · exact ⟨by simp [State.setMarker], by simp [State.setMarker], by simp [State.setMarker]⟩
  · exact ⟨by simp, by simp, by simp⟩

/-- Writeback of the same latch makes of the same files the same files. -/
theorem SameFiles.writebackStage {s t : State} (h : SameFiles s t) (hw : t.memWb = s.memWb) :
    SameFiles (writebackStage s) (writebackStage t) := by
  refine (sameFiles_writebackStage s).symm.trans (SameFiles.trans ?_ (sameFiles_writebackStage t))
  have hc : SameFiles (commitRecords s) (commitRecords t) := by
    rw [commitRecords_eq_foldl, commitRecords_eq_foldl, hw]
    exact h.foldl_commit _
  rw [hw]
  split
  · exact hc.writeReg _ _
  · exact hc

/-- Of the stages of every cycle Writeback alone writes the files. -/
theorem CycleTop.sameFiles {s s2 : State} {w : MemWb} {fresh : List Record} (h : CycleTop s s2 w fresh) :
    SameFiles (writebackStage s) s2 := by
  obtain ⟨s1, lmd, hm, rfl, -, -⟩ := h.ex
  obtain ⟨m, pc, rfl, -⟩ := memoryStage_frame hm
  have hwb : SameFiles (writebackStage s) (writebackStage { s with mem := m, pc := pc }) :=
    SameFiles.writebackStage ⟨rfl, rfl, rfl⟩ rfl
  exact hwb.trans ⟨rfl, rfl, rfl⟩

/-- Of the stages of a cycle Writeback alone writes the files. -/
theorem step_sameFiles {s t : State} (hr : Running s) (h : step s = .next t) : SameFiles (writebackStage s) t := by
  obtain ⟨s2, fresh, htop, -, hregs, hfregs, hfps, -⟩ := step_registers hr h
  exact htop.sameFiles.trans ⟨hregs, hfregs, hfps⟩

/-! ## Markers at the end of a cycle -/

@[simp] theorem endExecuteStall_marker (w : MemWb) (s : State) (sl : Slot) :
    (endExecuteStall w s).marker sl = s.marker sl := by cases sl <;> rfl

@[simp] theorem endDecodeStall_marker (w : MemWb) (x : ExMem) (s : State) (sl : Slot) :
    (endDecodeStall w x s).marker sl = s.marker sl := by cases sl <;> rfl

@[simp] theorem endFetched_marker (w : MemWb) (x : ExMem) (y : IdEx) (z : IfId) (s : State) (sl : Slot) :
    (endFetched w x y z s).marker sl = s.marker sl := by cases sl <;> rfl

@[simp] theorem endFetched_readSlot (w : MemWb) (x : ExMem) (y : IdEx) (z : IfId) (s : State) (sl : Slot) :
    (endFetched w x y z s).readSlot sl = s.readSlot sl := by cases sl <;> rfl

/-! ## Writeback where no two writers meet (R47) -/

/-- Under exact markers a slot has at most one writer in `MEM_WB`. -/
theorem memWbWriters_le_one {s : State} (h : MarkersExact s) (sl : Slot) : memWbWriters s.memWb sl ≤ 1 := by
  have hexact := h sl
  rw [writersOf_eq] at hexact
  split at hexact <;> omega

/-- A slot that a record covers and no other writer of the latch holds the record's value after Writeback. -/
theorem writebackStage_readSlot_of_record {s : State} {sl : Slot} (hone : memWbWriters s.memWb sl ≤ 1) {rec : Record}
    (hrec : rec ∈ s.memWb.records) {v : Word} (hv : rec.valueFor sl = some v) :
    (writebackStage s).readSlot sl = v := by
  have hcover : covers (s.memWb.records.map Record.tag) sl ≠ 0 := by
    rw [Ne, covers_eq_zero_iff, List.forall_mem_map]
    exact fun h => h rec hrec ((valueFor_isSome_iff rec sl).1 (by rw [hv]; rfl))
  rw [memWbWriters] at hone
  have hcommit : (commitRecords s).readSlot sl = v := by
    rw [commitRecords_eq_foldl]
    exact foldl_commit_covered (by omega) hrec hv s
  rw [(sameFiles_writebackStage s).readSlot]
  split
  · next hlink =>
    have hne : sl ∉ (Tag.r linkReg).slots := by
      have hzero : covers (linkTag? s.memWb.iw).toList sl = 0 := by omega
      rw [linkTag?, if_pos hlink, covers_eq_zero_iff] at hzero
      exact hzero _ List.mem_cons_self
    rw [← hcommit, ← readSlot_writeTag_of_not_mem (commitRecords s) (.r linkReg) (wide (s.memWb.pc + 4)) hne,
      State.writeTag, lo32_wide]
  · exact hcommit

theorem writebackStage_readReg_of_link {s : State} (h : (pathOfWord s.memWb.iw).isLink = true) :
    (writebackStage s).readReg linkReg = s.memWb.pc + 4 := by
  have hslot := (sameFiles_writebackStage s).readSlot (.r linkReg)
  rw [if_pos h] at hslot
  exact hslot.trans (by simp [State.readSlot])

theorem bit32_injective {a b : Bool} (h : bit32 a = bit32 b) : a = b := by
  rw [← lo32_bit32 a, h, lo32_bit32]

end Sys2Proof.Machine

open Sys2Proof Sys2Proof.Machine

/-- Settles O56: the stages write `PC`, memory, the files, the latches, the markers and units of the pools. -/
theorem configurationIsConstant : Obligations.ConfigurationIsConstant := by
  intro s t h
  rcases step_cases h with ⟨-, rfl⟩ | ⟨hrun, -⟩
  · exact ⟨rfl, fun _ => rfl⟩
  · obtain ⟨s2, fresh, htop, hcfg, -, -, -, -, -, -, hlen⟩ := step_registers (running_of_not_stopped hrun) h
    obtain ⟨hcfg2, -, -, -, -, -, -, -, -, hpool, -⟩ := htop.frame
    exact ⟨hcfg.trans hcfg2, fun k => by rw [hlen, hpool, unloadPool_length, tickPool_length]⟩

/-- Settles O42: a stopped machine's cycle is no cycle, and in a running one only Writeback of a `TRAP` sets a status
bit. -/
theorem haltedStepChangesNothing : Obligations.HaltedStepChangesNothing := by
  refine ⟨fun s hs => ⟨step_of_stopped hs, by simpa [stepReturns] using hs⟩, fun s t hr h => ?_⟩
  obtain ⟨s2, fresh, htop, -, -, -, -, hhalted, hfatal, -, -⟩ := step_registers hr h
  obtain ⟨-, -, -, -, -, hfatal2, -, -, hhalted2, -⟩ := htop.frame
  obtain ⟨hs1, hs2⟩ := hr
  have hf : t.fatal = false := by rw [hfatal, hfatal2, hs2]
  have hh : t.halted = (pathOfWord s.memWb.iw).isTrap := by rw [hhalted, hhalted2, hs1, Bool.false_or]
  exact ⟨hf, hh, by rw [stepReturns, hf, hh, Bool.or_false]⟩

/-- Settles O44: the three ends of a cycle. -/
theorem stepAdvancesOrHolds : Obligations.StepAdvancesOrHolds := by
  intro s t hr h hc
  obtain ⟨s2, w, fresh, htop, hcase⟩ := step_cases_of_running hr h
  obtain ⟨hcfg, hif, hid, -, -, -, -, hpc, -, -, hwiw, hwpc⟩ := htop.frame
  rw [executeInput_of_no_redirect hc, decodeInput_of_no_redirect hc] at hcase
  rw [hc, if_neg Bool.false_ne_true] at hpc
  rcases hcase with ⟨-, rfl⟩ | ⟨s3, x, hi, hcase⟩
  · exact ⟨hwiw, hwpc, (fun hns => by cases hns), fun _ => ⟨hif, hpc, .inl ⟨hid, rfl⟩⟩⟩
  · obtain ⟨hcfg3, -, -, -, hpc3, hmem3, hif3, -⟩ := issuePath_frame hi
    obtain ⟨-, hxiw, hxpc⟩ := issuePath_taken hi
    rcases hcase with ⟨-, rfl⟩ | ⟨y, z, hd, hf, rfl⟩
    · exact ⟨hwiw, hwpc, (fun hns => by cases hns),
        fun _ => ⟨hif3.trans hif, hpc3.trans hpc, .inr ⟨rfl, hxiw, hxpc⟩⟩⟩
    · obtain ⟨hword, hzpc⟩ := fetchStage_eq_ok hf
      obtain ⟨-, rfl⟩ := decodeStage_eq_some hd
      rw [hcfg3, hcfg, hpc3.trans hpc] at hword
      refine ⟨hwiw, hwpc, fun _ => ⟨hxiw, hxpc, rfl, rfl, hword, hzpc.trans (hpc3.trans hpc), ?_⟩,
        fun hst => by cases hst⟩
      rw [endFetched_pc, hpc3, hpc]

/-- Settles O45: Execute finds no unit for one of the reasons, Decode waits for the other; a cycle that does not stall
moves `PC` and puts the word of `ID_EX` in `EX_MEM`, which neither reason allows. -/
theorem stallOnlyForAReason : Obligations.StallOnlyForAReason := by
  intro s t hr h hc
  constructor
  case mp =>
    intro hst
    obtain ⟨s2, w, fresh, htop, hcase⟩ := step_cases_of_running hr h
    obtain ⟨hcfg, hif, hid, -, -, -, -, hpc, -⟩ := htop.frame
    rw [executeInput_of_no_redirect hc, decodeInput_of_no_redirect hc] at hcase
    rw [hc, if_neg Bool.false_ne_true] at hpc
    rcases hcase with ⟨hnone, rfl⟩ | ⟨s3, x, hi, ⟨hd, rfl⟩ | ⟨y, z, -, -, rfl⟩⟩
    · obtain ⟨op, dst, a, b, hp, hidle⟩ := (issuePath_eq_noUnit_iff ..).1 hnone
      refine .inl ⟨op, dst, a, b, hp, rfl, hid, ?_⟩
      rw [endExecuteStall_pool]
      exact (firstIdle_eq_none_iff _).1 hidle
    · obtain ⟨hcfg3, -, -, -, hpc3, -, hif3, -⟩ := issuePath_frame hi
      obtain ⟨-, hxiw, -⟩ := issuePath_taken hi
      have hwait := (pathReady_eq_false_iff ..).1 (decodeStage_eq_none hd)
      rw [hcfg3, hcfg] at hwait
      simp only [endDecodeStall_marker, endDecodeStall_memWb, ← htop.mem_fresh_iff]
      exact .inr ⟨hxiw, rfl, hif3.trans hif, hpc3.trans hpc, hwait⟩
    · cases hst
  case mpr =>
    intro hreason
    by_contra hst
    obtain ⟨-, -, hmoved, -⟩ := stepAdvancesOrHolds s t hr h hc
    obtain ⟨hxiw, -, -, -, -, -, hpc⟩ := hmoved (Bool.eq_false_of_not_eq_true hst)
    rcases hreason with ⟨op, dst, a, b, hp, hx, -⟩ | ⟨-, -, -, hheld, -⟩
    · rw [← hxiw, hx] at hp
      cases hp
    · rw [hheld] at hpc
      exact absurd hpc (by bv_omega)

/-- Settles O46, by what readiness of the instruction in `IF_ID` says of its slots. -/
theorem stagedOperandsAreFinal : Obligations.StagedOperandsAreFinal := by
  intro s t hr h hc hst
  obtain ⟨s2, w, fresh, htop, hcase⟩ := step_cases_of_running hr h
  obtain ⟨hcfg, -⟩ := htop.frame
  rw [executeInput_of_no_redirect hc, decodeInput_of_no_redirect hc] at hcase
  rcases hcase with ⟨-, rfl⟩ | ⟨s3, x, hi, ⟨-, rfl⟩ | ⟨y, z, hd, -, rfl⟩⟩
  · cases hst
  · cases hst
  · obtain ⟨hcfg3, -⟩ := issuePath_frame hi
    obtain ⟨hready, rfl⟩ := decodeStage_eq_some hd
    simp only [endFetched_marker, endFetched_readSlot, endFetched_memWb, endFetched_idEx, ← htop.mem_fresh_iff]
    refine ⟨marker_of_pathReady hready, stagedSlot fresh s3, fun sl hsl => ?_, rfl, rfl, rfl⟩
    rw [← hcfg, ← hcfg3]
    exact stagedSlot_of_pathReady hready hsl

/-- Settles O47: under a flush Execute and Decode work on bubbles, and Fetch reads at the target. -/
theorem takenBranchFlushes : Obligations.TakenBranchFlushes := by
  intro s hr hc
  constructor
  case left =>
    intro t h
    obtain ⟨hst, hpc, hifpc, hword⟩ := step_pc_of_redirect hr h hc
    obtain ⟨s2, w, fresh, htop, hcase⟩ := step_cases_of_running hr h
    obtain ⟨-, -, -, -, -, -, -, -, -, hpool, -⟩ := htop.frame
    rw [executeInput_of_redirect hc, decodeInput_of_redirect hc, issuePath_nop] at hcase
    rcases hcase with ⟨hnone, -⟩ | ⟨s3, x, hi, ⟨hwait, -⟩ | ⟨y, z, hd, -, rfl⟩⟩
    · cases hnone
    · cases hwait
    · cases hi
      cases hd
      refine ⟨hst, rfl, rfl, hifpc, hword, hpc, fun sl hsl => ?_, fun k => by rw [endFetched_pool, hpool]⟩
      rw [endFetched_marker, htop.marker, Bool.and_eq_true] at hsl
      exact hsl.1
  case right =>
    intro ha hrange
    rw [step_of_redirect hr hc ha]
    cases hf : fetchStage (executePhase1 (writebackStage (redirect s))).1 with
    | ok z => exact ⟨_, decodeAndFetch_of_ok (decodeStage_nop _ _) hf⟩
    | error f =>
      obtain ⟨-, hout⟩ := (fetchStage_eq_error_iff ..).1 hf
      rw [fetchPc_of_redirect hc] at hout
      simp only [executePhase1_cfg, writebackStage_cfg, redirect_cfg] at hout
      omega

/-- Settles O49: under exact markers no two writers of `MEM_WB` meet in a slot, so each record's value stays. -/
theorem writebackCommitsRecords : Obligations.WritebackCommitsRecords := by
  intro s t hr hx h
  have hfiles := step_sameFiles hr h
  obtain ⟨s2, fresh, htop, -, -, -, -, -, -, hmark, -⟩ := step_registers hr h
  refine ⟨fun rec hrec => ?_, fun hlink => ?_, fun sl hrec hlink => ?_⟩
  · have hval {sl : Slot} {v : Word} (hv : rec.valueFor sl = some v) : t.readSlot sl = v :=
      (hfiles.readSlot sl).trans (writebackStage_readSlot_of_record (memWbWriters_le_one hx sl) hrec hv)
    refine ⟨fun i htag => ?_, fun i htag => ?_, fun i htag => ⟨?_, ?_⟩, fun htag => ?_, fun sl hsl hnew => ?_⟩
    · exact hval (sl := .r i) (by simp [Record.valueFor, htag])
    · exact hval (sl := .f i) (by simp [Record.valueFor, htag])
    · exact hval (sl := .f i) (by simp [Record.valueFor, htag])
    · exact hval (sl := .f (i + 1)) (by simp [Record.valueFor, htag])
    · exact bit32_injective (hval (sl := .cc) (by simp [Record.valueFor, htag]))
    · have hcommitted : committed s.memWb sl = true := by
        rw [committed, Bool.or_eq_true, List.any_eq_true]
        exact .inl ⟨rec, hrec, by simpa using hsl⟩
      by_contra hset
      rcases hmark sl (by simpa using hset) with hdst | hold
      · exact hnew hdst
      · rw [htop.marker, hcommitted, Bool.not_true, Bool.and_false] at hold
        cases hold
  · exact (hfiles.readSlot (.r linkReg)).trans (writebackStage_readReg_of_link hlink)
  · exact (hfiles.readSlot sl).trans (writebackStage_frame s hrec hlink).1

/-- Settles O55: Memory faults on an access out of range, Fetch on a `PC` out of range, and no other stage does. -/
theorem faultsOfAStep : Obligations.FaultsOfAStep := by
  refine ⟨fun s addr => ⟨fun h => ?_, fun ⟨hr, hout⟩ => ?_⟩, fun s p h => ?_, fun s hr hc ha hout => ?_,
    fun s k n h => ?_, fun s r h => (step_refused_cases h).2.1⟩
  · obtain ⟨hr, hm | ⟨hf, -⟩⟩ := step_fault h
    · obtain ⟨a, ha, hout⟩ := (memoryStage_eq_error_iff ..).1 hm
      cases ha
      exact ⟨hr, hout⟩
    · cases hf
  · exact step_of_memoryStage_error hr ((memoryStage_eq_error_iff ..).2 ⟨addr, rfl, hout⟩)
  · obtain ⟨hr, hm | ⟨hf, hout⟩⟩ := step_fault h
    · exact absurd hm (memoryStage_ne_error (by simp))
    · cases hf
      exact ⟨hr, rfl, hout⟩
  · have hf : fetchStage (executePhase1 (writebackStage (redirect s))).1 = .error (.outOfRangeFetch s.exMem.aluout) := by
      rw [fetchStage_eq_error_iff, fetchPc_of_redirect hc]
      exact ⟨rfl, by simpa using hout⟩
    rw [step_of_redirect hr hc ha]
    exact decodeAndFetch_of_error (decodeStage_nop _ _) hf
  · obtain ⟨-, hm | ⟨hf, -⟩⟩ := step_fault h
    · exact memoryStage_ne_error (by simp) hm
    · cases hf

end

section
/-! Settles the statements about reset, the caller's operations and a machine at rest (10_state.md section 13,
47_external_interface.md, 70_reset_and_hazards.md). -/

namespace Sys2Proof.Machine

/-! ## A program load (R389) -/

/-- A load leaves the bytes before and behind it. -/
theorem readByte_storeBytes_outside (m : Memory) (a : Nat) (bs : List Byte) (h : Memory.wf m = true) {x : Nat}
    (hx : x < a ∨ a + bs.length ≤ x) : readByte (storeBytes m a bs) x = readByte m x := by
  induction bs generalizing m a with
  | nil => rfl
  | cons b bs ih =>
    rw [List.length_cons] at hx
    rw [storeBytes, ih _ _ (wf_writeByte m a b h) (by omega), readByte_writeByte m a x b h, if_neg (by omega)]

/-- Byte `k` of a load is at its base plus `k`. -/
theorem readByte_storeBytes_inside (m : Memory) (a : Nat) (bs : List Byte) (h : Memory.wf m = true) {k : Nat}
    (hk : k < bs.length) : readByte (storeBytes m a bs) (a + k) = bs.getD k 0 := by
  induction bs generalizing m a k with
  | nil => cases hk
  | cons b bs ih =>
    have hwf := wf_writeByte m a b h
    cases k with
    | zero =>
      rw [storeBytes, readByte_storeBytes_outside _ _ _ hwf (by omega), readByte_writeByte m a _ b h,
        if_pos (Nat.add_zero a)]
      rfl
    | succ k =>
      rw [storeBytes, Nat.add_comm k 1, ← Nat.add_assoc, ih _ _ hwf (Nat.lt_of_succ_lt_succ hk), Nat.add_comm 1 k]
      rfl

/-! ## A machine at rest -/

/-- The parts of `atRest` but for the configuration, the pools and the markers by class and by slot. -/
structure AtRest (s : State) : Prop where
  ifId : s.ifId = nopIfId
  idEx : s.idEx = nopIdEx
  exMem : s.exMem = nopExMem
  memWb : s.memWb = nopMemWb
  marker : ∀ sl, s.marker sl = false
  pool : ∀ k, s.pool k = List.replicate (unitCount s.cfg k) .idle
  running : Running s

theorem AtRest.of_atRest {s : State} (h : atRest s = true) : AtRest s := by
  simp only [atRest, Bool.and_eq_true, decide_eq_true_eq, Bool.not_eq_true'] at h
  obtain ⟨⟨⟨⟨⟨⟨⟨⟨⟨⟨⟨⟨⟨-, hif⟩, hid⟩, hex⟩, hwb⟩, hui⟩, huf⟩, huc⟩, halu⟩, hfadd⟩, hfmul⟩, hfdiv⟩, hhalted⟩, hfatal⟩ := h
  refine ⟨hif, hid, hex, hwb, fun sl => ?_, fun k => ?_, hhalted, hfatal⟩
  · cases sl with
    | r i => rw [State.marker, hui, fileGet_replicate]
    | f i => rw [State.marker, huf, fileGet_replicate]
    | cc => exact huc
  · cases k <;> assumption

/-- A pool of Idle units ticks into itself and gives no result. -/
theorem unloadPool_tickPool_replicate_idle (n : Nat) :
    unloadPool (tickPool (List.replicate n .idle)) = (none, List.replicate n .idle) := by
  rw [tickPool, List.map_replicate, tick_idle]
  exact unloadPool_of_no_done fun u hu v t hdone => by
    rw [List.eq_of_mem_replicate hu] at hdone
    cases hdone

/-- No results. -/
def noResults : UnitResults := { alu := none, fadd := none, fmul := none, fdiv := none }

/-- Where every unit is Idle, phase 1 of Execute does nothing. -/
theorem executePhase1_of_idle {s : State} (h : ∀ k, s.pool k = List.replicate (unitCount s.cfg k) .idle) :
    executePhase1 s = (s, noResults) := by
  have halu := h .alu
  have hfadd := h .fadd
  have hfmul := h .fmul
  have hfdiv := h .fdiv
  simp only [State.pool] at halu hfadd hfmul hfdiv
  have hunload {p : List FuncUnit} {n : Nat} (hp : p = List.replicate n .idle) :
      unloadPool (tickPool p) = (none, p) := by rw [hp, unloadPool_tickPool_replicate_idle]
  rw [executePhase1, hunload halu, hunload hfadd, hunload hfmul, hunload hfdiv]
  rfl

theorem memoryStage_of_nop {s : State} (h : s.exMem = nopExMem) : memoryStage s = .ok (s, none) := by
  rw [memoryStage, redirect, h]
  rfl

theorem writebackStage_of_nop {s : State} (h : s.memWb = nopMemWb) : writebackStage s = s := by
  rw [writebackStage, haltWriteback, linkWriteback, commitRecords, h]
  rfl

/-- A cycle with bubbles in `EX_MEM` and `MEM_WB` and every unit Idle, in which no stage has cause to wait. -/
theorem step_of_empty {s s' : State} {x : ExMem} {y : IdEx} {z : IfId} (hr : Running s) (hx : s.exMem = nopExMem)
    (hw : s.memWb = nopMemWb) (hpool : ∀ k, s.pool k = List.replicate (unitCount s.cfg k) .idle)
    (hi : issuePath (pathOfWord s.idEx.iw) s.idEx s = .taken s' x) (hd : decodeStage [] s.ifId s' = some y)
    (hf : fetchStage s' = .ok z) : step s = .next (endFetched nopMemWb x y z s') := by
  have hc : s.exMem.cond = false := by rw [hx]; rfl
  have htop : executePhase1 (writebackStage s) = (s, noResults) := by
    rw [writebackStage_of_nop hw, executePhase1_of_idle hpool]
  rw [step_of_taken hr (memoryStage_of_nop hx) (by rw [htop, executeInput_of_no_redirect hc]; exact hi), htop,
    decodeInput_of_no_redirect hc, hx]
  exact decodeAndFetch_of_ok hd hf

/-- At rest a cycle is a fetch. -/
theorem step_of_atRest {s : State} {w : Word} (h : AtRest s) (hf : fetchWord s.cfg.memSize s.mem s.pc = some w) :
    step s = .next { s with ifId := { iw := w, pc := s.pc }, pc := s.pc + 4, stalled := false } := by
  have hstep : step s = .next (endFetched nopMemWb nopExMem nopIdEx { iw := w, pc := s.pc } s) :=
    step_of_empty h.running h.exMem h.memWb h.pool (by rw [h.idEx]; exact issuePath_nop s)
      (by rw [h.ifId]; exact decodeStage_nop [] s) (by rw [fetchStage, hf])
  rw [hstep, ← h.memWb, ← h.exMem, ← h.idEx]
  rfl

end Sys2Proof.Machine

open Sys2Proof Sys2Proof.Machine

/-- Settles O38: each field of the state after reset. -/
theorem resetState : Obligations.ResetState := by
  refine ⟨fun cfg image start s hs => ?_, rfl⟩
  subst hs
  refine ⟨fun i => ⟨fileGet_replicate 0 i, fileGet_replicate 0 i⟩, rfl, rfl, rfl, rfl, rfl, rfl, rfl, rfl, fun k => ?_,
    marker_resetWith cfg image start, rfl, rfl, rfl⟩
  rw [pool_resetWith]
  exact ⟨fun u hu => List.eq_of_mem_replicate hu, List.length_replicate⟩

/-- Settles O40: at rest Execute and Decode work on bubbles, and what a word decodes to decides its path. -/
theorem stepRunsTheDecodedInstruction : Obligations.StepRunsTheDecodedInstruction := by
  refine ⟨fun s w hrest hf => step_of_atRest (.of_atRest hrest) hf, fun w i hw => ⟨?_, ?_, exec_eq_runAlone i⟩⟩
  · rintro e s rfl
    exact executePhase2_of_decodeWord hw s
  · rintro fresh d s rfl
    rw [decodeStage, pathOfWord_of_decodeWord hw]
    cases pathReady fresh s (pathOf i) <;> simp

/-- Settles O60: the reads are those of the model, and a load is one byte write after the other. -/
theorem interfaceReadsCommittedState : Obligations.InterfaceReadsCommittedState := by
  refine ⟨fun s i => ⟨rfl, rfl⟩, fun s a n => ?_, fun s base bytes hwf => ⟨fun k hk => ?_, fun a ha => ?_, ?_⟩,
    fun s base bytes => rfl, fun s start => rfl, fun cfg => ⟨rfl, rfl, ?_⟩⟩
  · split
    · rfl
    · next hout => exact (memRead_eq_none_iff ..).2 (Nat.lt_of_not_le hout)
  · exact readByte_storeBytes_inside s.mem base bytes hwf hk
  · exact readByte_storeBytes_outside s.mem base bytes hwf ha
  · exact wf_storeBytes s.mem base bytes hwf
  · exact atRest_beforeFirstCycle (configure cfg)

end

section
/-! One instruction alone in the machine (70_reset_and_hazards.md section 1): runs, and the three cycles from its fetch
to `EX_MEM`. -/

namespace Sys2Proof.Machine

/-! ## Runs -/

theorem core_run_add {m : Nat} {s u : State} (h : Sys2Proof.core.run m s = .next u) (n : Nat) :
    Sys2Proof.core.run (m + n) s = Sys2Proof.core.run n u := by
  induction m generalizing s with
  | zero =>
    cases h
    rw [Nat.zero_add]
  | succ m ih =>
    obtain ⟨v, hstep, hrun⟩ := core_run_succ_eq_next h
    rw [Nat.add_right_comm, core_run_of_next hstep, ih hrun]

/-- A run goes on with one more cycle. -/
theorem core_run_snoc {m : Nat} {s u v : State} (h : Sys2Proof.core.run m s = .next u) (hstep : step u = .next v) :
    Sys2Proof.core.run (m + 1) s = .next v := by
  rw [core_run_add h, core_run_of_next hstep, core_run_zero]

/-- Where Fetch reads after `c` cycles without a redirect. -/
def State.pcAfter (s : State) (c : Nat) : Word := s.pc + BitVec.ofNat 32 (4 * c)

theorem State.pcAfter_add_four (s : State) (c : Nat) : s.pcAfter c + 4 = s.pcAfter (c + 1) := by
  rw [State.pcAfter, State.pcAfter]
  bv_omega

/-- The words behind the instruction, by the cycle after which Fetch reads them. -/
theorem fetchWord_of_nopsFrom {memSize n c : Nat} {m : Memory} {s : State} (h : nopsFrom memSize m (s.pc + 4) n)
    (hc : 1 ≤ c) (hcn : c ≤ n) : fetchWord memSize m (s.pcAfter c) = some 0 := by
  have hword := h (c - 1) (by omega)
  have hpc : s.pc + 4 + BitVec.ofNat 32 (4 * (c - 1)) = s.pcAfter c := by
    obtain ⟨d, rfl⟩ : ∃ d, c = d + 1 := ⟨c - 1, by omega⟩
    rw [Nat.add_sub_cancel, State.pcAfter]
    bv_omega
  rwa [hpc] at hword

/-! ## Cycles 1 to 3: Fetch, Decode, Execute -/

/-- What Decode stages of an instruction that waits for nothing. -/
def aloneLatch (p : Path) (d : IfId) (s : State) : IdEx :=
  { iw := d.iw, pc := d.pc, a := p.sourceA.value s.readSlot, b := p.sourceB.value s.readSlot,
    cond := p.cond (p.sourceA.value s.readSlot) }

/-- The latch of Decode's bubble at an address. -/
def bubbleAt (pc : Word) : IdEx := { nopIdEx with pc := pc }

/-- With every marker clear Decode stages the values of the files. -/
theorem decodeStage_of_clear {s : State} (h : ∀ sl, s.marker sl = false) (fresh : List Record) (d : IfId) :
    decodeStage fresh d s = some (aloneLatch (pathOfWord d.iw) d s) := by
  have hresolve (sl : Slot) : resolveSlot fresh s sl = some (s.readSlot sl) := by rw [resolveSlot, if_pos (h sl)]
  have hready : pathReady fresh s (pathOfWord d.iw) = true := by simp [pathReady, hresolve, h]
  have hstaged : stagedSlot fresh s = s.readSlot := by
    funext sl
    rw [stagedSlot, hresolve, Option.getD_some]
  rw [decodeStage, if_pos hready, stageLatch, hstaged]
  rfl

theorem decodeStage_zero (fresh : List Record) (pc : Word) (s : State) :
    decodeStage fresh { iw := 0, pc := pc } s = some (bubbleAt pc) :=
  decodeStage_pass pathOfWord_zero fresh s

theorem fetchStage_of_word {s : State} {v : Word} (h : fetchWord s.cfg.memSize s.mem s.pc = some v) :
    fetchStage s = .ok { iw := v, pc := s.pc } := by
  rw [fetchStage, h]

/-- The state with an instruction in `IF_ID`. -/
def State.fetched (s : State) (w : Word) : State :=
  { s with ifId := { iw := w, pc := s.pc }, pc := s.pc + 4, stalled := false }

theorem fetched_marker {s : State} (h : AtRest s) (w : Word) (sl : Slot) : (s.fetched w).marker sl = false := by
  rw [← h.marker sl]
  cases sl <;> rfl

theorem fetched_pool {s : State} (h : AtRest s) (w : Word) (k : UnitClass) :
    (s.fetched w).pool k = List.replicate (unitCount s.cfg k) .idle := by
  rw [← h.pool k]
  cases k <;> rfl

/-- The state with an instruction in `ID_EX` and a NOP behind it. -/
def State.staged (s : State) (w : Word) : State :=
  { s with
    ifId := { iw := 0, pc := s.pcAfter 1 }, idEx := aloneLatch (pathOfWord w) { iw := w, pc := s.pc } s,
    pc := s.pcAfter 2, stalled := false }

/-- Two cycles stage the word at `PC` of a machine at rest. -/
theorem run_two_of_atRest {s : State} {w : Word} (h : AtRest s) (hw : fetchWord s.cfg.memSize s.mem s.pc = some w)
    (h1 : fetchWord s.cfg.memSize s.mem (s.pcAfter 1) = some 0) : Sys2Proof.core.run 2 s = .next (s.staged w) := by
  have hdecode := step_of_empty (s := s.fetched w) h.running h.exMem h.memWb (fetched_pool h w)
    (by rw [show (s.fetched w).idEx = nopIdEx from h.idEx]; exact issuePath_nop _)
    (decodeStage_of_clear (fetched_marker h w) [] _) (fetchStage_of_word h1)
  rw [← h.memWb, ← h.exMem, State.fetched] at hdecode
  refine core_run_snoc (core_run_snoc (core_run_zero s) (step_of_atRest h hw)) (hdecode.trans ?_)
  rw [endFetched, State.staged, ← s.pcAfter_add_four 1]
  rfl

theorem staged_marker {s : State} (h : AtRest s) (w : Word) (sl : Slot) : (s.staged w).marker sl = false := by
  rw [← h.marker sl]
  cases sl <;> rfl

theorem staged_pool {s : State} (h : AtRest s) (w : Word) (k : UnitClass) :
    (s.staged w).pool k = List.replicate (unitCount s.cfg k) .idle := by
  rw [← h.pool k]
  cases k <;> rfl

/-- A machine of Idle units and bounded configuration has a unit for every instruction but the refused ones. -/
theorem issuePath_of_idle {s : State} (hcfg : s.cfg.wf = true)
    (h : ∀ k, s.pool k = List.replicate (unitCount s.cfg k) .idle) {p : Path} (hp : p ≠ .slot31) (e : IdEx) :
    ∃ s' x, issuePath p e s = .taken s' x := by
  cases hi : issuePath p e s with
  | taken s' x => exact ⟨s', x, rfl⟩
  | fault f => exact absurd hi (issuePath_ne_fault p e s f)
  | refused r => exact absurd ((issuePath_eq_refused_iff p e s r).1 hi).1 hp
  | noUnit =>
    obtain ⟨op, dst, a, b, -, hidle⟩ := (issuePath_eq_noUnit_iff p e s).1 hi
    rw [firstIdle_eq_none_iff, h] at hidle
    have hcount : 1 ≤ unitCount s.cfg op.unitClass := by
      simp only [Configuration.wf, Bool.and_eq_true, decide_eq_true_eq] at hcfg
      obtain ⟨⟨⟨⟨⟨⟨⟨halu, hfadd⟩, hfmul⟩, hfdiv⟩, -⟩, -⟩, -⟩, -⟩ := hcfg
      cases op.unitClass <;> assumption
    exact absurd rfl (hidle .idle (List.mem_replicate.2 ⟨by omega, rfl⟩))

/-- The machine three cycles after the fetch of an instruction of path `p`: it is in `EX_MEM`, or in a unit too, with
bubbles behind it and nothing ahead of it. -/
structure Executed (s : State) (p : Path) (w : Word) (u : State) : Prop where
  running : Running u
  cfg : u.cfg = s.cfg
  mem : u.mem = s.mem
  files : SameFiles s u
  pc : u.pc = s.pcAfter 3
  ifId : u.ifId.iw = 0
  idEx : u.idEx.iw = 0
  memWb : u.memWb = nopMemWb
  iw : u.exMem.iw = w
  addr : u.exMem.pc = s.pc
  marker : ∀ sl, u.marker sl = decide (sl ∈ p.dstSlots)
  taken : ∃ c c', issuePath p (aloneLatch p { iw := w, pc := s.pc } s) c = .taken c' u.exMem ∧ c.cfg = s.cfg ∧
    (∀ k, c.pool k = List.replicate (unitCount s.cfg k) .idle) ∧ ∀ k, u.pool k = c'.pool k

theorem executed_of_atRest {s : State} {w : Word} (h : AtRest s) (hcfg : s.cfg.wf = true)
    (hw : fetchWord s.cfg.memSize s.mem s.pc = some w) (hp : pathOfWord w ≠ .slot31)
    (h1 : fetchWord s.cfg.memSize s.mem (s.pcAfter 1) = some 0)
    (h2 : fetchWord s.cfg.memSize s.mem (s.pcAfter 2) = some 0) :
    ∃ u, Sys2Proof.core.run 3 s = .next u ∧ Executed s (pathOfWord w) w u := by
  obtain ⟨c, x, hi⟩ := issuePath_of_idle (s := s.staged w) hcfg (staged_pool h w) hp
    (s.staged w).idEx
  obtain ⟨hconfig, hregs, hfregs, hfps, hpc, hmem, -, -, -, -, hhalted, hfatal⟩ := issuePath_frame hi
  obtain ⟨-, hiw, haddr⟩ := issuePath_taken hi
  have hfetch : fetchStage c = .ok { iw := 0, pc := s.pcAfter 2 } := by
    rw [fetchStage_of_word (v := 0) (by rw [hconfig, hmem, hpc]; exact h2), hpc]
    rfl
  have hstep := step_of_empty (s := s.staged w) h.running h.exMem h.memWb (staged_pool h w) hi
    (decodeStage_zero [] (s.pcAfter 1) c) hfetch
  refine ⟨_, core_run_snoc (run_two_of_atRest h hw h1) hstep, ⟨hhalted.trans h.running.1, hfatal.trans h.running.2⟩,
    hconfig, hmem, ⟨hregs, hfregs, hfps⟩, ?_, rfl, rfl, rfl, hiw, haddr, fun sl => ?_, s.staged w, c, hi, rfl,
    staged_pool h w, fun k => endFetched_pool ..⟩
  · rw [endFetched_pc, hpc]
    exact s.pcAfter_add_four 2
  · rw [endFetched_marker, issuePath_marker hi, staged_marker h, Bool.or_false]

end Sys2Proof.Machine
end

section
/-! One instruction alone in the machine, from its third cycle to the one before its last: cycle 4 of those that need no
unit, and the cycles of a unit operation. -/

namespace Sys2Proof.Machine

/-! ## A cycle with bubbles behind the Memory stage -/

/-- The results of the units in the next cycle. -/
def poolResults (s : State) : List Record :=
  (unloadPool (tickPool (s.pool .alu))).1.toList ++ (unloadPool (tickPool (s.pool .fadd))).1.toList ++
  (unloadPool (tickPool (s.pool .fmul))).1.toList ++ (unloadPool (tickPool (s.pool .fdiv))).1.toList

/-- What such a cycle does, where its Memory stage answers `u1` and `lmd`: Writeback, the ticks of the units, and one
more NOP fetched. -/
structure BubbleStep (u u1 : State) (lmd : Option Record) (v : State) : Prop where
  cfg : v.cfg = u.cfg
  mem : v.mem = u1.mem
  pc : v.pc = u1.pc + 4
  files : SameFiles (writebackStage u) v
  halted : v.halted = (pathOfWord u.memWb.iw).isTrap
  fatal : v.fatal = false
  ifId : v.ifId.iw = 0
  idEx : v.idEx.iw = 0
  exMem : ∃ pc, v.exMem = { nopExMem with pc := pc }
  iw : v.memWb.iw = u.exMem.iw
  addr : v.memWb.pc = u.exMem.pc
  records : v.memWb.records = poolResults u ++ lmd.toList
  marker : ∀ sl, v.marker sl = (u.marker sl && !committed u.memWb sl)
  pool : ∀ k, v.pool k = (unloadPool (tickPool (u.pool k))).2

theorem executeInput_iw_of_bubble {u : State} (h : u.idEx.iw = 0) : (executeInput u).iw = 0 := by
  unfold executeInput
  split
  · rfl
  · exact h

theorem decodeInput_iw_of_bubble {u : State} (h : u.ifId.iw = 0) : (decodeInput u).iw = 0 := by
  unfold decodeInput
  split
  · rfl
  · exact h

theorem step_of_bubbles {u u1 : State} {lmd : Option Record} (hr : Running u) (hid : u.idEx.iw = 0)
    (hif : u.ifId.iw = 0) (hm : memoryStage u = .ok (u1, lmd)) (hf : fetchWord u.cfg.memSize u1.mem u1.pc = some 0) :
    ∃ v, step u = .next v ∧ BubbleStep u u1 lmd v := by
  have hexec : pathOfWord (executeInput u).iw = .pass := by rw [executeInput_iw_of_bubble hid, pathOfWord_zero]
  have hdec : pathOfWord (decodeInput u).iw = .pass := by rw [decodeInput_iw_of_bubble hif, pathOfWord_zero]
  have htop : CycleTop u (executePhase1 (writebackStage u1)).1
      (nextMemWb u.exMem lmd (executePhase1 (writebackStage u1)).2)
      (freshRecords lmd (executePhase1 (writebackStage u1)).2) := ⟨u1, lmd, hm, rfl, rfl, rfl⟩
  obtain ⟨hcfg, -, -, -, -, hfatal, -, -, hhalted, hpool, -, -⟩ := htop.frame
  have hfetch := fetchStage_of_word (s := (executePhase1 (writebackStage u1)).1) (v := 0)
    (by rw [hcfg, executePhase1_mem, writebackStage_mem, executePhase1_pc, writebackStage_pc]; exact hf)
  refine ⟨_, (step_of_taken hr hm (executePhase2_pass hexec _)).trans
    (decodeAndFetch_of_ok (decodeStage_pass hdec _ _) hfetch), hcfg, ?_, ?_,
    htop.sameFiles.trans ⟨rfl, rfl, rfl⟩, ?_, hfatal.trans hr.2, rfl, decodeInput_iw_of_bubble hif,
    ⟨(executeInput u).pc, ?_⟩, rfl, rfl, ?_, fun sl => ?_, fun k => ?_⟩
  · rw [endFetched_mem, executePhase1_mem, writebackStage_mem]
  · rw [endFetched_pc, executePhase1_pc, writebackStage_pc]
  · exact hhalted.trans (by rw [hr.1, Bool.false_or])
  · rw [endFetched_exMem, plainExMem, executeInput_iw_of_bubble hid]
    rfl
  · obtain ⟨m, pc, rfl, -⟩ := memoryStage_frame hm
    simp [MemWb.records, nextMemWb, poolResults, executePhase1, State.pool]
  · rw [endFetched_marker, htop.marker]
  · rw [endFetched_pool, hpool]

/-- Where every unit is Idle there are no results and the pools stay. -/
theorem poolResults_of_idle {u : State} {n : UnitClass → Nat} (h : ∀ k, u.pool k = List.replicate (n k) .idle) :
    poolResults u = [] ∧ ∀ k, (unloadPool (tickPool (u.pool k))).2 = List.replicate (n k) .idle := by
  constructor
  · simp only [poolResults, h, unloadPool_tickPool_replicate_idle, Option.toList_none, List.append_nil]
  · intro k
    rw [h, unloadPool_tickPool_replicate_idle]

/-! ## The last cycle -/

/-- The next cycle's Writeback makes the files those of `t`, and memory is that of `t`; nothing else is in flight. -/
structure Retiring (s t u : State) (pc : Word) : Prop where
  running : Running u
  cfg : u.cfg = s.cfg
  mem : u.mem = t.mem
  pc : u.pc = pc
  ifId : u.ifId.iw = 0
  idEx : u.idEx.iw = 0
  exMem : ∃ pc, u.exMem = { nopExMem with pc := pc }
  unchanged : SameFiles s u
  files : SameFiles t (writebackStage u)
  halted : (pathOfWord u.memWb.iw).isTrap = t.halted
  marker : ∀ sl, u.marker sl = true → committed u.memWb sl = true
  pool : ∀ k, u.pool k = List.replicate (unitCount s.cfg k) .idle

theorem memoryStage_of_no_access {u : State} (ha : u.exMem.acc = .none) (hc : u.exMem.cond = false) :
    memoryStage u = .ok (u, none) := by
  rw [memoryStage, ha, redirect, hc]
  rfl

theorem Retiring.lastCycle {s t u : State} {pc : Word} (h : Retiring s t u pc)
    (hf : fetchWord s.cfg.memSize t.mem pc = some 0) :
    ∃ v, step u = .next v ∧ SameFiles t v ∧ v.mem = t.mem ∧ v.halted = t.halted ∧ v.pc = pc + 4 ∧
      (∀ sl, v.marker sl = false) ∧ ∀ k, v.pool k = List.replicate (unitCount s.cfg k) .idle := by
  obtain ⟨epc, hx⟩ := h.exMem
  have hm : memoryStage u = .ok (u, none) := memoryStage_of_no_access (by rw [hx]; rfl) (by rw [hx]; rfl)
  obtain ⟨v, hstep, hb⟩ := step_of_bubbles h.running h.idEx h.ifId hm (by rw [h.cfg, h.mem, h.pc]; exact hf)
  refine ⟨v, hstep, h.files.trans hb.files, hb.mem.trans h.mem, hb.halted.trans h.halted, by rw [hb.pc, h.pc],
    fun sl => ?_, fun k => ?_⟩
  · rw [hb.marker]
    cases hset : u.marker sl with
    | false => rfl
    | true => rw [h.marker sl hset]; rfl
  · rw [hb.pool, (poolResults_of_idle h.pool).2]

/-- The files after Writeback of a latch whose word is no `JAL`. -/
theorem sameFiles_writebackStage_of_records {s u : State} (h : SameFiles s u)
    (hlink : (pathOfWord u.memWb.iw).isLink = false) :
    SameFiles (u.memWb.records.foldl State.commit s) (writebackStage u) := by
  have hwb := sameFiles_writebackStage u
  rw [hlink, if_neg Bool.false_ne_true, commitRecords_eq_foldl] at hwb
  exact (h.foldl_commit _).trans hwb

theorem committed_of_record {w : MemWb} {rec : Record} (hrec : rec ∈ w.records) {sl : Slot}
    (hsl : sl ∈ rec.tag.slots) : committed w sl = true := by
  rw [committed, Bool.or_eq_true, List.any_eq_true]
  exact .inl ⟨rec, hrec, by simpa using hsl⟩

/-! ## Cycle 4 of an instruction that needs no unit -/

/-- Execution of anything but a unit operation leaves every unit Idle. -/
theorem Executed.idle {s u : State} {p : Path} {w : Word} (h : Executed s p w u)
    (hp : ∀ op dst a b, p ≠ .unit op dst a b) (k : UnitClass) :
    u.pool k = List.replicate (unitCount s.cfg k) .idle := by
  obtain ⟨c, c', hi, -, hpool, hpool'⟩ := h.taken
  rw [hpool', issuePath_taken_other hi hp, State.setMarkers_pool, hpool]

/-- Cycle 4 ends in a retiring machine if the Memory stage makes memory and the records complete. -/
theorem Executed.retiring {s t u u1 v : State} {p : Path} {w : Word} {lmd : Option Record} (h : Executed s p w u)
    (hw : pathOfWord w = p) (hp : ∀ op dst a b, p ≠ .unit op dst a b) (hb : BubbleStep u u1 lmd v)
    (hmem : u1.mem = t.mem)
    (hfiles : SameFiles t (if p.isLink then (lmd.toList.foldl State.commit s).writeReg linkReg (s.pc + 4)
      else lmd.toList.foldl State.commit s))
    (hhalted : p.isTrap = t.halted)
    (hmarker : ∀ sl ∈ p.dstSlots,
      (∃ rec, lmd = some rec ∧ sl ∈ rec.tag.slots) ∨ (p.isLink = true ∧ sl = .r linkReg)) :
    Retiring s t v (u1.pc + 4) := by
  obtain ⟨hresults, hpool⟩ := poolResults_of_idle (h.idle hp)
  have hiw : pathOfWord v.memWb.iw = p := by rw [hb.iw, h.iw, hw]
  have hrecords : v.memWb.records = lmd.toList := by rw [hb.records, hresults, List.nil_append]
  have hquiet : pathOfWord u.memWb.iw = .pass := by rw [h.memWb]; rfl
  have hunchanged : SameFiles s v := by
    have hwb := writebackStage_of_nop h.memWb ▸ hb.files
    exact h.files.trans hwb
  refine ⟨⟨by rw [hb.halted, hquiet]; rfl, hb.fatal⟩, hb.cfg.trans h.cfg, hb.mem.trans hmem, hb.pc, hb.ifId, hb.idEx,
    hb.exMem, hunchanged, ?_, by rw [hiw, hhalted], fun sl hsl => ?_, fun k => (hb.pool k).trans (hpool k)⟩
  · refine hfiles.trans (SameFiles.trans ?_ (sameFiles_writebackStage v))
    have hc : SameFiles (lmd.toList.foldl State.commit s) (commitRecords v) := by
      rw [commitRecords_eq_foldl, hrecords]
      exact hunchanged.foldl_commit _
    rw [hiw, hb.addr, h.addr]
    split
    · exact hc.writeReg linkReg (s.pc + 4)
    · exact hc
  · rw [hb.marker, h.marker, Bool.and_eq_true, decide_eq_true_eq] at hsl
    rcases hmarker sl hsl.1 with ⟨rec, rfl, hrec⟩ | ⟨hlink, rfl⟩
    · exact committed_of_record (by rw [hrecords]; exact List.mem_cons_self) hrec
    · simp [committed, hiw, hlink]

/-! ## `EX_MEM` three cycles after the fetch (R353) -/

theorem Executed.exMem_load {s u : State} {dst : Tag} {base : Reg} {disp : BitVec 16} {n : Width} {sg : Bool} {w : Word}
    (h : Executed s (.load dst base disp n sg) w u) :
    u.exMem.acc = .read dst (effAddr (s.readReg base) disp) n sg ∧ u.exMem.cond = false := by
  obtain ⟨c, c', hi, -⟩ := h.taken
  rw [← lo32_wide (s.readReg base)]
  injection hi with _ hx
  rw [← hx]
  exact ⟨rfl, rfl⟩

theorem Executed.exMem_store {s u : State} {base : Reg} {disp : BitVec 16} {n : Width} {data : Source} {w : Word}
    (h : Executed s (.store base disp n data) w u) :
    u.exMem.acc = .write (effAddr (s.readReg base) disp) n (cutStore n (data.value s.readSlot)) ∧
      u.exMem.cond = false := by
  obtain ⟨c, c', hi, -⟩ := h.taken
  rw [← lo32_wide (s.readReg base)]
  injection hi with _ hx
  rw [← hx]
  exact ⟨rfl, rfl⟩

theorem Executed.exMem_branch {s u : State} {test : BranchTest} {disp : BitVec 16} {w : Word}
    (h : Executed s (.branch test disp) w u) :
    u.exMem.acc = .none ∧ u.exMem.cond = test.holds (test.source.value s.readSlot) ∧
      u.exMem.aluout = branchTarget s.pc disp := by
  obtain ⟨c, c', hi, -⟩ := h.taken
  injection hi with _ hx
  rw [← hx]
  exact ⟨rfl, rfl, rfl⟩

theorem Executed.exMem_jump {s u : State} {offset : BitVec 26} {link : Bool} {w : Word}
    (h : Executed s (.jump offset link) w u) :
    u.exMem.acc = .none ∧ u.exMem.cond = true ∧ u.exMem.aluout = jumpTarget s.pc offset := by
  obtain ⟨c, c', hi, -⟩ := h.taken
  injection hi with _ hx
  rw [← hx]
  exact ⟨rfl, rfl, rfl⟩

/-- Of a `TRAP`, a NOP and an unimplemented word `EX_MEM` holds the word and its address alone. -/
theorem Executed.exMem_plain {s u : State} {p : Path} {w : Word} (h : Executed s p w u) (hp : p = .trap ∨ p = .pass) :
    u.exMem.acc = .none ∧ u.exMem.cond = false := by
  obtain ⟨c, c', hi, -⟩ := h.taken
  rcases hp with rfl | rfl <;>
  · injection hi with _ hx
    rw [← hx]
    exact ⟨rfl, rfl⟩

/-! ## The Memory stage of cycle 4 -/

theorem memoryStage_of_read {u : State} {tag : Tag} {addr : Word} {n : Width} {sg : Bool} {v : DWord}
    (ha : u.exMem.acc = .read tag addr n sg) (hc : u.exMem.cond = false)
    (hv : memRead u.cfg.memSize u.mem addr n = some v) :
    memoryStage u = .ok (u, some { tag := tag, value := extendLoad n sg v }) := by
  simp only [memoryStage, ha, hv, redirect, hc]
  rfl

theorem memoryStage_of_write {u : State} {addr : Word} {n : Width} {payload : DWord} {m : Memory}
    (ha : u.exMem.acc = .write addr n payload) (hc : u.exMem.cond = false)
    (hm : memWrite u.cfg.memSize u.mem addr n payload = some m) : memoryStage u = .ok ({ u with mem := m }, none) := by
  simp only [memoryStage, ha, hm, redirect, hc]
  rfl

theorem memoryStage_of_target {u : State} (ha : u.exMem.acc = .none) (hc : u.exMem.cond = true) :
    memoryStage u = .ok (u.setPc u.exMem.aluout, none) := by
  rw [memoryStage, ha, redirect, if_pos hc]

/-- Where Fetch reads in cycle 4, with `t` the state that the meaning of the instruction gives. -/
def fourthPc (p : Path) (s t : State) : Word := if redirects p s then t.pc else s.pcAfter 3

/-- Cycle 4 of an instruction that needs no unit makes memory that of its meaning, and leaves the files for
Writeback. -/
theorem Executed.cycleFour {s t u : State} {p : Path} {w : Word} (h : Executed s p w u) (hw : pathOfWord w = p)
    (hp : ∀ op dst a b, p ≠ .unit op dst a b) (hs : Running s) (ht : runAlone p s = .next t)
    (hf : fetchWord s.cfg.memSize t.mem (fourthPc p s t) = some 0) :
    ∃ v, step u = .next v ∧ Retiring s t v (fourthPc p s t + 4) := by
  have hhalted : p.isTrap = t.halted := by rw [runAlone_halted ht, hs.1, Bool.false_or]
  have finish {u1 : State} {lmd : Option Record} (hm : memoryStage u = .ok (u1, lmd)) (hmem : u1.mem = t.mem)
      (hpc : u1.pc = fourthPc p s t)
      (hfiles : SameFiles t (if p.isLink then (lmd.toList.foldl State.commit s).writeReg linkReg (s.pc + 4)
        else lmd.toList.foldl State.commit s))
      (hmarker : ∀ sl ∈ p.dstSlots,
        (∃ rec, lmd = some rec ∧ sl ∈ rec.tag.slots) ∨ (p.isLink = true ∧ sl = .r linkReg)) :
      ∃ v, step u = .next v ∧ Retiring s t v (fourthPc p s t + 4) := by
    obtain ⟨v, hstep, hb⟩ := step_of_bubbles h.running h.idEx h.ifId hm (by rw [h.cfg, hmem, hpc]; exact hf)
    exact ⟨v, hstep, hpc ▸ h.retiring hw hp hb hmem hfiles hhalted hmarker⟩
  cases p with
  | unit op dst a b => exact absurd rfl (hp op dst a b)
  | slot31 => cases ht
  | load dst base disp n sg =>
    obtain ⟨ha, hc⟩ := h.exMem_load
    simp only [runAlone] at ht
    split at ht
    · cases ht
    · next v hv =>
      cases ht
      refine finish (memoryStage_of_read ha hc (by rw [h.cfg, h.mem]; exact hv)) (h.mem.trans (by simp)) h.pc ?_
        fun sl hsl => .inl ⟨_, rfl, hsl⟩
      have hadvance : SameFiles (s.writeTag dst (extendLoad n sg v)).advance (s.writeTag dst (extendLoad n sg v)) :=
        ⟨rfl, rfl, rfl⟩
      exact hadvance.trans (sameFiles_commit s { tag := dst, value := extendLoad n sg v })
  | store base disp n data =>
    obtain ⟨ha, hc⟩ := h.exMem_store
    simp only [runAlone] at ht
    split at ht
    · cases ht
    · next m hm =>
      cases ht
      exact finish (memoryStage_of_write ha hc (by rw [h.cfg, h.mem]; exact hm)) rfl h.pc ⟨rfl, rfl, rfl⟩
        fun sl hsl => by cases hsl
  | branch test disp =>
    obtain ⟨ha, hc, hout⟩ := h.exMem_branch
    have hredirects : redirects (.branch test disp) s = test.holds (test.source.value s.readSlot) := rfl
    rw [← hredirects] at hc
    rw [runAlone, ← hredirects] at ht
    cases htaken : redirects (.branch test disp) s with
    | true =>
      rw [htaken, if_pos rfl] at ht
      cases ht
      refine finish (memoryStage_of_target ha (hc.trans htaken)) h.mem ?_ ⟨rfl, rfl, rfl⟩ fun sl hsl => by cases hsl
      rw [fourthPc, htaken, if_pos rfl, State.setPc_pc, State.setPc_pc, hout]
    | false =>
      rw [htaken, if_neg Bool.false_ne_true] at ht
      cases ht
      refine finish (memoryStage_of_no_access ha (hc.trans htaken)) h.mem ?_ ⟨rfl, rfl, rfl⟩ fun sl hsl => by cases hsl
      rw [fourthPc, htaken, if_neg Bool.false_ne_true, h.pc]
  | jump offset link =>
    obtain ⟨ha, hc, hout⟩ := h.exMem_jump
    cases ht
    have hpc : (u.setPc u.exMem.aluout).pc = fourthPc (.jump offset link) s
        ((if link then s.writeReg linkReg (s.pc + 4) else s).setPc (jumpTarget s.pc offset)) := hout
    cases link with
    | true =>
      exact finish (memoryStage_of_target ha hc) h.mem hpc ⟨rfl, rfl, rfl⟩
        fun sl hsl => .inr ⟨rfl, List.mem_singleton.1 hsl⟩
    | false =>
      exact finish (memoryStage_of_target ha hc) h.mem hpc ⟨rfl, rfl, rfl⟩ fun sl hsl => by cases hsl
  | trap =>
    obtain ⟨ha, hc⟩ := h.exMem_plain (.inl rfl)
    cases ht
    exact finish (memoryStage_of_no_access ha hc) h.mem h.pc ⟨rfl, rfl, rfl⟩ fun sl hsl => by cases hsl
  | pass =>
    obtain ⟨ha, hc⟩ := h.exMem_plain (.inr rfl)
    cases ht
    exact finish (memoryStage_of_no_access ha hc) h.mem h.pc ⟨rfl, rfl, rfl⟩ fun sl hsl => by cases hsl

/-! ## A unit operation from cycle 4 on (R296, R372) -/

/-- A pool of Idle units but for one. -/
def oneUnit (n j : Nat) (u : FuncUnit) : List FuncUnit := (List.replicate n .idle).set j u

theorem mem_oneUnit {n j : Nat} {u x : FuncUnit} (h : x ∈ oneUnit n j u) : x = .idle ∨ x = u := by
  rcases List.mem_or_eq_of_mem_set h with hidle | hx
  · exact .inl (List.eq_of_mem_replicate hidle)
  · exact .inr hx

theorem tickPool_oneUnit (n j : Nat) (u : FuncUnit) : tickPool (oneUnit n j u) = oneUnit n j u.tick := by
  rw [tickPool, oneUnit, List.map_set, List.map_replicate, tick_idle]
  rfl

/-- Before its last cycle the unit gives no result. -/
theorem unloadPool_oneUnit_busy (n j : Nat) (a b : DWord) (op : UnitOp) (r : Nat) (tag : Tag) :
    unloadPool (oneUnit n j (.busy a b op r tag)) = (none, oneUnit n j (.busy a b op r tag)) :=
  unloadPool_of_no_done fun x hx v t hdone => by
    rcases mem_oneUnit hx with rfl | rfl <;> cases hdone

/-- In its last cycle it gives its result and is Idle again. -/
theorem unloadPool_oneUnit_done {n j : Nat} (hj : j < n) (v : DWord) (tag : Tag) :
    unloadPool (oneUnit n j (.done v tag)) = (some { tag := tag, value := v }, List.replicate n .idle) := by
  have hlen : j < (List.replicate n FuncUnit.idle).length := by rwa [List.length_replicate]
  rw [oneUnit, unloadPool_of_first_done (k := j) (v := v) (t := tag) (List.getElem?_set_self hlen)]
  · rw [List.set_set, List.set_replicate_self]
  · intro i hi v' t' hdone
    rw [List.getElem?_set_ne (by omega)] at hdone
    cases List.eq_of_mem_replicate (List.mem_of_getElem? hdone)

/-- The results of a cycle in which one class alone can give one. -/
theorem poolResults_of_class {u : State} {c : UnitClass} {o : Option Record}
    (hother : ∀ k, k ≠ c → (unloadPool (tickPool (u.pool k))).1 = none)
    (hc : (unloadPool (tickPool (u.pool c))).1 = o) : poolResults u = o.toList := by
  cases c with
  | alu => simp [poolResults, hc, hother]
  | fadd => simp [poolResults, hc, hother]
  | fmul => simp [poolResults, hc, hother]
  | fdiv => simp [poolResults, hc, hother]

/-- The machine with an operation in a unit that has `r` cycles to go, `c` cycles after the fetch. -/
structure InUnit (s : State) (op : UnitOp) (dst : Tag) (a b : DWord) (r c : Nat) (u : State) : Prop where
  running : Running u
  cfg : u.cfg = s.cfg
  mem : u.mem = s.mem
  pc : u.pc = s.pcAfter c
  files : SameFiles s u
  ifId : u.ifId.iw = 0
  idEx : u.idEx.iw = 0
  acc : u.exMem.acc = .none
  cond : u.exMem.cond = false
  exMem : (pathOfWord u.exMem.iw).isLink = false ∧ (pathOfWord u.exMem.iw).isTrap = false
  memWb : (pathOfWord u.memWb.iw).isLink = false ∧ (pathOfWord u.memWb.iw).isTrap = false
  records : u.memWb.records = []
  marker : ∀ sl, u.marker sl = decide (sl ∈ dst.slots)
  unit : ∃ j, j < unitCount s.cfg op.unitClass ∧
    u.pool op.unitClass = oneUnit (unitCount s.cfg op.unitClass) j (.busy a b op r dst)
  other : ∀ k, k ≠ op.unitClass → u.pool k = List.replicate (unitCount s.cfg k) .idle

/-- A unit operation is in its unit three cycles after the fetch, with the latency of its class to go. -/
theorem Executed.inUnit {s u : State} {op : UnitOp} {dst : Tag} {a b : Source} {w : Word}
    (h : Executed s (.unit op dst a b) w u) (hw : pathOfWord w = .unit op dst a b) :
    InUnit s op dst (a.value s.readSlot) (b.value s.readSlot) (latency s.cfg op.unitClass) 3 u := by
  obtain ⟨c, c', hi, hcfg, hidle, hpool⟩ := h.taken
  obtain ⟨j, hj, hx, rfl⟩ := issuePath_taken_unit hi
  simp only [State.setMarkers_pool, hidle, hcfg] at hpool hj
  refine ⟨h.running, h.cfg, h.mem, h.pc, h.files, h.ifId, h.idEx, by rw [hx]; rfl, by rw [hx]; rfl, ?_, ?_, ?_,
    h.marker, ⟨j, ?_, ?_⟩, fun k hk => ?_⟩
  · rw [h.iw, hw]
    exact ⟨rfl, rfl⟩
  · rw [h.memWb]
    exact ⟨rfl, rfl⟩
  · rw [h.memWb]
    rfl
  · obtain ⟨hlt, -⟩ := List.getElem?_eq_some_iff.1 hj
    rwa [List.length_replicate] at hlt
  · rw [hpool, State.pool_setPool_same]
    rfl
  · rw [hpool, State.pool_setPool_ne _ _ hk, hidle]

/-- One cycle of a machine with an operation in a unit. -/
theorem InUnit.step {s u : State} {op : UnitOp} {dst : Tag} {a b : DWord} {r c : Nat} (h : InUnit s op dst a b r c u)
    (hf : fetchWord s.cfg.memSize s.mem (s.pcAfter c) = some 0) :
    ∃ v, Machine.step u = .next v ∧ BubbleStep u u none v ∧ Running v ∧ SameFiles s v ∧
      ∀ sl, v.marker sl = decide (sl ∈ dst.slots) := by
  obtain ⟨v, hstep, hb⟩ := step_of_bubbles h.running h.idEx h.ifId (memoryStage_of_no_access h.acc h.cond)
    (by rw [h.cfg, h.mem, h.pc]; exact hf)
  have hfiles := sameFiles_writebackStage_of_records h.files h.memWb.1
  rw [h.records] at hfiles
  have hcommitted (sl : Slot) : committed u.memWb sl = false := by
    rw [committed, h.records, h.memWb.1]
    rfl
  exact ⟨v, hstep, hb, ⟨hb.halted.trans h.memWb.2, hb.fatal⟩, hfiles.trans hb.files,
    fun sl => by rw [hb.marker, hcommitted, h.marker, Bool.not_false, Bool.and_true]⟩

theorem InUnit.other_unload {s u : State} {op : UnitOp} {dst : Tag} {a b : DWord} {r c : Nat}
    (h : InUnit s op dst a b r c u) {k : UnitClass} (hk : k ≠ op.unitClass) :
    unloadPool (tickPool (u.pool k)) = (none, List.replicate (unitCount s.cfg k) .idle) := by
  rw [h.other k hk, unloadPool_tickPool_replicate_idle]

/-- Before the last cycle of the operation it stays in its unit. -/
theorem InUnit.tick {s u : State} {op : UnitOp} {dst : Tag} {a b : DWord} {r c : Nat}
    (h : InUnit s op dst a b (r + 2) c u) (hf : fetchWord s.cfg.memSize s.mem (s.pcAfter c) = some 0) :
    ∃ v, Machine.step u = .next v ∧ InUnit s op dst a b (r + 1) (c + 1) v := by
  obtain ⟨v, hstep, hb, hrunning, hfiles, hmarker⟩ := h.step hf
  obtain ⟨j, hj, hunit⟩ := h.unit
  have hunload : unloadPool (tickPool (u.pool op.unitClass)) =
      (none, oneUnit (unitCount s.cfg op.unitClass) j (.busy a b op (r + 1) dst)) := by
    rw [hunit, tickPool_oneUnit, tick_busy, unloadPool_oneUnit_busy]
  obtain ⟨epc, hx⟩ := hb.exMem
  have hbubble : pathOfWord v.exMem.iw = .pass := by
    rw [hx]
    exact pathOfWord_zero
  refine ⟨v, hstep, hrunning, hb.cfg.trans h.cfg, hb.mem.trans h.mem, ?_, hfiles, hb.ifId, hb.idEx, by rw [hx]; rfl,
    by rw [hx]; rfl, by rw [hbubble]; exact ⟨rfl, rfl⟩, by rw [hb.iw]; exact h.exMem, ?_, hmarker, ⟨j, hj, ?_⟩,
    fun k hk => ?_⟩
  · rw [hb.pc, h.pc, s.pcAfter_add_four]
  · rw [hb.records, poolResults_of_class (fun k hk => by rw [h.other_unload hk]) (by rw [hunload])]
    rfl
  · rw [hb.pool, hunload]
  · rw [hb.pool, h.other_unload hk]

/-- In the last cycle of the operation its result goes to `MEM_WB`. -/
theorem InUnit.finish {s t u : State} {op : UnitOp} {dst : Tag} {a b : DWord} {c : Nat}
    (h : InUnit s op dst a b 1 c u) (hf : fetchWord s.cfg.memSize s.mem (s.pcAfter c) = some 0)
    (ht : SameFiles t (s.writeTag dst (compute op a b))) (hmem : t.mem = s.mem) (hhalted : t.halted = false) :
    ∃ v, Machine.step u = .next v ∧ Retiring s t v (s.pcAfter (c + 1)) := by
  obtain ⟨v, hstep, hb, hrunning, hfiles, hmarker⟩ := h.step hf
  obtain ⟨j, hj, hunit⟩ := h.unit
  have hunload : unloadPool (tickPool (u.pool op.unitClass)) =
      (some { tag := dst, value := compute op a b }, List.replicate (unitCount s.cfg op.unitClass) .idle) := by
    rw [hunit, tickPool_oneUnit, tick_last, unloadPool_oneUnit_done hj]
  have hrecords : v.memWb.records = [{ tag := dst, value := compute op a b }] := by
    rw [hb.records, poolResults_of_class (fun k hk => by rw [h.other_unload hk]) (by rw [hunload])]
    rfl
  refine ⟨v, hstep, hrunning, hb.cfg.trans h.cfg, (hb.mem.trans h.mem).trans hmem.symm, ?_, hb.ifId, hb.idEx, hb.exMem,
    hfiles, ?_, ?_, fun sl hsl => ?_, fun k => ?_⟩
  · rw [hb.pc, h.pc, s.pcAfter_add_four]
  · have hwb := sameFiles_writebackStage_of_records hfiles (by rw [hb.iw]; exact h.exMem.1)
    rw [hrecords] at hwb
    exact (ht.trans (sameFiles_commit s { tag := dst, value := compute op a b })).trans hwb
  · rw [hb.iw, h.exMem.2, hhalted]
  · rw [hmarker, decide_eq_true_eq] at hsl
    exact committed_of_record (by rw [hrecords]; exact List.mem_cons_self) hsl
  · rw [hb.pool]
    by_cases hk : k = op.unitClass
    · rw [hk, hunload]
    · rw [h.other_unload hk]

/-- The operation's result is in `MEM_WB` after as many cycles as it has to go. -/
theorem InUnit.run {s t u : State} {op : UnitOp} {dst : Tag} {a b : DWord} {r c : Nat}
    (h : InUnit s op dst a b (r + 1) c u) (hc : 1 ≤ c) (hn : nopsFrom s.cfg.memSize s.mem (s.pc + 4) (c + r))
    (ht : SameFiles t (s.writeTag dst (compute op a b))) (hmem : t.mem = s.mem) (hhalted : t.halted = false) :
    ∃ v, Sys2Proof.core.run (r + 1) u = .next v ∧ Retiring s t v (s.pcAfter (c + r + 1)) := by
  induction r generalizing c u with
  | zero =>
    obtain ⟨v, hstep, hret⟩ := h.finish (fetchWord_of_nopsFrom hn hc (by omega)) ht hmem hhalted
    exact ⟨v, core_run_snoc (core_run_zero u) hstep, hret⟩
  | succ r ih =>
    obtain ⟨v, hstep, hunit⟩ := h.tick (fetchWord_of_nopsFrom hn hc (by omega))
    have hshift : c + (r + 1) = c + 1 + r := by omega
    obtain ⟨x, hrun, hret⟩ := ih hunit (by omega) (hshift ▸ hn)
    exact ⟨x, (core_run_of_next hstep (r + 1)).trans hrun, hshift ▸ hret⟩

end Sys2Proof.Machine
end

section
/-! Settles the two statements about one instruction alone in the machine: the run that drains it, and the cycle in which
it takes effect. -/

namespace Sys2Proof.Machine

/-! ## The run up to the last cycle -/

/-- Two NOPs behind an instruction that is not refused bring it to `EX_MEM`. -/
theorem executed_of_nops {s : State} {w : Word} {n : Nat} (h : AtRest s) (hcfg : s.cfg.wf = true)
    (hw : fetchWord s.cfg.memSize s.mem s.pc = some w) (hp : pathOfWord w ≠ .slot31)
    (hn : nopsFrom s.cfg.memSize s.mem (s.pc + 4) n) (hn2 : 2 ≤ n) :
    ∃ u, Sys2Proof.core.run 3 s = .next u ∧ Executed s (pathOfWord w) w u :=
  executed_of_atRest h hcfg hw hp (fetchWord_of_nopsFrom hn (by omega) (by omega))
    (fetchWord_of_nopsFrom hn (by omega) hn2)

/-- The word that cycle 4 fetches. -/
theorem fetchWord_fourthPc {p : Path} {s t : State} {n : Nat} (hn : nopsFrom s.cfg.memSize t.mem (s.pc + 4) n)
    (hn3 : redirects p s = false → 3 ≤ n) (htarget : redirects p s = true → nopsFrom s.cfg.memSize t.mem t.pc 2) :
    fetchWord s.cfg.memSize t.mem (fourthPc p s t) = some 0 := by
  rw [fourthPc]
  cases hred : redirects p s with
  | true => simpa using htarget hred 0 (by decide)
  | false => exact fetchWord_of_nopsFrom hn (by decide) (hn3 hred)

/-- The word that cycle 5 fetches. -/
theorem fetchWord_fourthPc_add_four {p : Path} {s t : State} {n : Nat}
    (hn : nopsFrom s.cfg.memSize t.mem (s.pc + 4) n) (hn4 : redirects p s = false → 4 ≤ n)
    (htarget : redirects p s = true → nopsFrom s.cfg.memSize t.mem t.pc 2) :
    fetchWord s.cfg.memSize t.mem (fourthPc p s t + 4) = some 0 := by
  rw [fourthPc]
  cases hred : redirects p s with
  | true => simpa using htarget hred 1 (by decide)
  | false =>
    rw [if_neg Bool.false_ne_true, s.pcAfter_add_four]
    exact fetchWord_of_nopsFrom hn (by decide) (hn4 hred)

/-- The run of a unit operation to its last cycle. -/
theorem run_to_retiring_of_unit {s t : State} {w : Word} {op : UnitOp} {dst : Tag} {a b : Source} (h : AtRest s)
    (hcfg : s.cfg.wf = true) (hw : fetchWord s.cfg.memSize s.mem s.pc = some w) (hp : pathOfWord w = .unit op dst a b)
    (ht : runAlone (.unit op dst a b) s = .next t)
    (hn : nopsFrom s.cfg.memSize s.mem (s.pc + 4) (latency s.cfg op.unitClass + 3)) :
    ∃ u, Sys2Proof.core.run (latency s.cfg op.unitClass + 3) s = .next u ∧
      Retiring s t u (s.pcAfter (latency s.cfg op.unitClass + 3)) := by
  have hlat := latency_pos hcfg op.unitClass
  obtain ⟨u, hrun, hexec⟩ := executed_of_nops h hcfg hw (by rw [hp]; exact Path.noConfusion) hn (by omega)
  rw [hp] at hexec
  have hunit := hexec.inUnit hp
  obtain ⟨r, hr⟩ : ∃ r, latency s.cfg op.unitClass = r + 1 := ⟨latency s.cfg op.unitClass - 1, by omega⟩
  rw [hr] at hunit hn ⊢
  cases ht
  obtain ⟨v, hrun', hret⟩ := hunit.run (t := (s.writeTag dst _).advance) (by decide)
    (fun j hj => hn j (by omega)) ⟨rfl, rfl, rfl⟩ (by simp) (by simpa using h.running.1)
  refine ⟨v, ?_, ?_⟩
  · rw [Nat.add_comm (r + 1) 3, core_run_add hrun, hrun']
  · rwa [show r + 1 + 3 = 3 + r + 1 by omega]

theorem nonUnit_or_unit (p : Path) : (∃ op dst a b, p = .unit op dst a b) ∨ ∀ op dst a b, p ≠ .unit op dst a b := by
  cases p with
  | unit op dst a b => exact .inl ⟨op, dst, a, b, rfl⟩
  | _ => exact .inr fun _ _ _ _ => Path.noConfusion

theorem cyclesAlone_of_nonUnit {cfg : Configuration} {p : Path} (hp : ∀ op dst a b, p ≠ .unit op dst a b) :
    cyclesAlone cfg p = 5 := by
  cases p with
  | unit op dst a b => exact absurd rfl (hp op dst a b)
  | _ => rfl

theorem ne_slot31_of_runAlone {p : Path} {s t : State} (h : runAlone p s = .next t) : p ≠ .slot31 := by
  rintro rfl
  cases h

/-! ## What has taken effect before the last cycle -/

/-- Nothing of the instruction has taken effect. -/
structure BeforeEffect (s u : State) : Prop where
  files : SameFiles s u
  mem : u.mem = s.mem
  halted : u.halted = false

theorem Executed.beforeEffect {s u : State} {p : Path} {w : Word} (h : Executed s p w u) : BeforeEffect s u :=
  ⟨h.files, h.mem, h.running.1⟩

/-- Only a store has a write pending. -/
theorem Executed.acc_ne_write {s u : State} {p : Path} {w : Word} (h : Executed s p w u)
    (hp : ∀ base disp n data, p ≠ .store base disp n data) (addr : Word) (n : Width) (payload : DWord) :
    u.exMem.acc ≠ .write addr n payload := by
  obtain ⟨c, c', hi, -⟩ := h.taken
  intro hacc
  cases p with
  | unit op dst a b =>
    obtain ⟨_, _, hx, _⟩ := issuePath_taken_unit hi
    rw [hx] at hacc
    cases hacc
  | store base disp n data => exact hp base disp n data rfl
  | slot31 => cases hi
  | _ =>
    injection hi with _ hx
    rw [← hx] at hacc
    cases hacc

/-- Cycle 4 of an instruction that is no store has no effect yet, whatever it fetches. -/
theorem Executed.beforeEffect_step {s u v : State} {p : Path} {w : Word} (h : Executed s p w u)
    (hp : ∀ base disp n data, p ≠ .store base disp n data) (hstep : step u = .next v) : BeforeEffect s v := by
  have hfiles := step_sameFiles h.running hstep
  rw [writebackStage_of_nop h.memWb] at hfiles
  refine ⟨h.files.trans hfiles, ?_, ?_⟩
  · refine Eq.trans ?_ h.mem
    cases hacc : u.exMem.acc with
    | none => exact (step_of_no_access h.running hstep hacc).1
    | read tag addr n sg => exact (step_of_pending_read h.running hstep hacc).1
    | write addr n payload => exact absurd hacc (h.acc_ne_write hp addr n payload)
  · obtain ⟨-, hhalted, -⟩ := haltedStepChangesNothing.2 u v h.running hstep
    rw [hhalted, h.memWb]
    rfl

/-- An instruction whose meaning faults raises that fault in cycle 4. -/
theorem Executed.fault {s u : State} {p : Path} {w : Word} {f : Fault} (h : Executed s p w u)
    (hf : runAlone p s = .fault f) : step u = .fault f := by
  refine step_of_memoryStage_error h.running ((memoryStage_eq_error_iff ..).2 ?_)
  rw [h.cfg]
  cases p with
  | load dst base disp n sg =>
    obtain ⟨hacc, -⟩ := h.exMem_load
    simp only [runAlone] at hf
    split at hf
    · next hnone =>
      cases hf
      exact ⟨_, rfl, .inl ⟨dst, n, sg, hacc, (memRead_eq_none_iff ..).1 hnone⟩⟩
    · cases hf
  | store base disp n data =>
    obtain ⟨hacc, -⟩ := h.exMem_store
    simp only [runAlone] at hf
    split at hf
    · next hnone =>
      cases hf
      exact ⟨_, rfl, .inr ⟨n, _, hacc, (memWrite_eq_none_iff ..).1 hnone⟩⟩
    · cases hf
  | _ => cases hf

/-- An instruction without a destination leaves the files. -/
theorem runAlone_sameFiles {p : Path} {s t : State} (h : runAlone p s = .next t) (hp : p.dst = none) :
    SameFiles s t := by
  cases p with
  | unit op dst a b => cases hp
  | load dst base disp n sg => cases hp
  | store base disp n data =>
    simp only [runAlone] at h
    split at h
    · cases h
    · cases h
      exact ⟨rfl, rfl, rfl⟩
  | branch test disp =>
    simp only [runAlone] at h
    split at h <;>
    · cases h
      exact ⟨rfl, rfl, rfl⟩
  | jump offset link =>
    cases link with
    | true => cases hp
    | false =>
      cases h
      exact ⟨rfl, rfl, rfl⟩
  | slot31 => cases h
  | _ =>
    cases h
    exact ⟨rfl, rfl, rfl⟩

/-! ## The word that a load puts at `PC` (R61, R389) -/

theorem getD_tableBytes (w : Nat) {k : Nat} (hk : k < 4) :
    (tableBytes 32 w).getD k 0 = (BitVec.ofNat 32 w).extractLsb' (8 * k) 8 := by
  have hget : (tableBytes 32 w).getD k 0 = BitVec.ofNat 8 (w % 2 ^ 32 / 2 ^ (8 * k)) := by
    simp [tableBytes, List.getD_eq_getElem?_getD, hk]
  apply BitVec.eq_of_toNat_eq
  rw [hget, BitVec.toNat_ofNat, BitVec.extractLsb'_toNat, BitVec.toNat_ofNat, Nat.shiftRight_eq_div_pow]

theorem fetchWord_withWordAtPc {s : State} (w : Nat) (hwf : Memory.wf s.mem = true)
    (hpc : s.pc.toNat + 4 ≤ s.cfg.memSize) :
    fetchWord s.cfg.memSize (s.withWordAtPc 32 w).mem s.pc = some (BitVec.ofNat 32 w) := by
  have hbyte {k : Nat} (hk : k < 4) : readByte (s.withWordAtPc 32 w).mem (s.pc.toNat + k) =
      (BitVec.ofNat 32 w).extractLsb' (8 * k) 8 := by
    rw [← getD_tableBytes w hk]
    exact readByte_storeBytes_inside s.mem s.pc.toNat (tableBytes 32 w) hwf (by simpa [tableBytes] using hk)
  rw [fetchWord, memRead_of_inRange hpc, Option.map_some, lo32, setWidth_ofNat_64 (by decide), Width.bytes,
    ofNat_readLE_word, hbyte (k := 3) (by decide), hbyte (k := 2) (by decide), hbyte (k := 1) (by decide)]
  have h0 := hbyte (k := 0) (by decide)
  rw [Nat.add_zero] at h0
  rw [h0]
  exact congrArg some (wordOfBytes_bytes (BitVec.ofNat 32 w))

/-- A machine before its first cycle has nothing in flight. -/
theorem AtRest.withWordAtPc (s : State) (nbits w : Nat) : AtRest (s.withWordAtPc nbits w) := by
  refine ⟨rfl, rfl, rfl, rfl, fun sl => ?_, fun k => by cases k <;> rfl, rfl, rfl⟩
  cases sl with
  | r i => exact fileGet_replicate false i
  | f i => exact fileGet_replicate false i
  | cc => rfl

theorem cfg_wf_of_atRest {s : State} (h : atRest s = true) : s.cfg.wf = true := by
  simp only [atRest, Bool.and_eq_true] at h
  obtain ⟨⟨⟨⟨⟨⟨⟨⟨⟨⟨⟨⟨⟨hcfg, -⟩, -⟩, -⟩, -⟩, -⟩, -⟩, -⟩, -⟩, -⟩, -⟩, -⟩, -⟩, -⟩ := h
  exact hcfg

/-! ## The cycle in which an instruction takes effect (log 2) -/

/-- The instruction's effect is still to come in the state `u`, and the next step is the one that makes it: it ends as
the meaning of the path does, where Fetch goes on reading NOPs for `behind` words. -/
structure EffectNext (p : Path) (s : State) (behind : Nat) (u : State) : Prop where
  before : BeforeEffect s u
  next : ∀ t, runAlone p s = .next t → nopsFrom s.cfg.memSize t.mem (s.pc + 4) behind →
    (redirects p s = true → nopsFrom s.cfg.memSize t.mem t.pc 2) →
    ∃ v, step u = .next v ∧ SameFiles t v ∧ v.mem = t.mem ∧ v.halted = t.halted ∧
      v.pc = if redirects p s then t.pc + BitVec.ofNat 32 (4 * (lastEffectCycle s.cfg p - 3))
        else s.pcAfter (lastEffectCycle s.cfg p)
  fault : ∀ f, runAlone p s = .fault f → step u = .fault f
  refused : ∀ r, runAlone p s = .refused r → step u = .refused r

/-- A double at slot 31 is refused by the step after that of its Decode. -/
theorem effectNext_of_slot31 {s : State} {w : Word} (h : AtRest s) (hp : pathOfWord w = .slot31) (behind : Nat) :
    EffectNext .slot31 s behind (s.staged w) := by
  refine ⟨⟨⟨rfl, rfl, rfl⟩, rfl, h.running.1⟩, fun t ht => (by cases ht), fun f hf => (by cases hf), fun r hr => ?_⟩
  cases hr
  exact step_of_slot31 h.running h.exMem hp

/-- A unit operation takes effect in the cycle after that in which its unit was done. -/
theorem effectNext_of_unit {s : State} {w : Word} {op : UnitOp} {dst : Tag} {a b : Source} {behind : Nat} (h : AtRest s)
    (hcfg : s.cfg.wf = true) (hw : fetchWord s.cfg.memSize s.mem s.pc = some w) (hp : pathOfWord w = .unit op dst a b)
    (hbehind : behind = latency s.cfg op.unitClass + 3) (hn : nopsFrom s.cfg.memSize s.mem (s.pc + 4) behind) :
    EffectNext (.unit op dst a b) s behind (runWhileNext (latency s.cfg op.unitClass + 3) s) := by
  subst hbehind
  have hlat := latency_pos hcfg op.unitClass
  obtain ⟨u, hrun, hret⟩ := run_to_retiring_of_unit h hcfg hw hp rfl hn
  rw [runWhileNext_of_run hrun]
  refine ⟨⟨hret.unchanged, hret.mem.trans (by simp), hret.running.1⟩, fun t ht hn' _ => ?_, fun f hf => (by cases hf),
    fun r hr => (by cases hr)⟩
  cases ht
  obtain ⟨v, hstep, hfiles, hmem, hhalted, hpc, -⟩ :=
    hret.lastCycle (fetchWord_of_nopsFrom hn' (by omega) (le_refl _))
  exact ⟨v, hstep, hfiles, hmem, hhalted, hpc.trans (s.pcAfter_add_four _)⟩

/-- Of the instructions that need no unit those without a destination, but for `TRAP` and those that do nothing, take
effect in cycle 4, and no store among the others, which do so in cycle 5. -/
theorem lastEffectCycle_of_nonUnit (cfg : Configuration) {p : Path} (hp : ∀ op dst a b, p ≠ .unit op dst a b)
    (hslot : p ≠ .slot31) :
    (lastEffectCycle cfg p = 4 ∧ p.dst = none ∧ p.isTrap = false) ∨
    (lastEffectCycle cfg p = 5 ∧ ∀ base disp n data, p ≠ .store base disp n data) := by
  cases p with
  | unit op dst a b => exact absurd rfl (hp op dst a b)
  | slot31 => exact absurd rfl hslot
  | store base disp n data => exact .inl ⟨rfl, rfl, rfl⟩
  | branch test disp => exact .inl ⟨rfl, rfl, rfl⟩
  | jump offset link =>
    cases link with
    | false => exact .inl ⟨rfl, rfl, rfl⟩
    | true => exact .inr ⟨rfl, fun _ _ _ _ => Path.noConfusion⟩
  | _ => exact .inr ⟨rfl, fun _ _ _ _ => Path.noConfusion⟩

/-- A store, a branch or a jump without link takes effect in the Memory stage of cycle 4. -/
theorem Executed.effectNext_four {s u : State} {p : Path} {w : Word} {behind : Nat} (h : Executed s p w u)
    (hw : pathOfWord w = p) (hp : ∀ op dst a b, p ≠ .unit op dst a b) (hs : Running s) (hslot : p ≠ .slot31)
    (hlast : lastEffectCycle s.cfg p = 4) (hdst : p.dst = none) (htrap : p.isTrap = false)
    (hbehind : redirects p s = false → 3 ≤ behind) : EffectNext p s behind u := by
  refine ⟨h.beforeEffect, fun t ht hn htarget => ?_, fun f hf => h.fault hf,
    fun r hr => absurd (runAlone_eq_refused hr).1 hslot⟩
  obtain ⟨v, hstep, hret⟩ := h.cycleFour hw hp hs ht (fetchWord_fourthPc hn hbehind htarget)
  refine ⟨v, hstep, (runAlone_sameFiles ht hdst).symm.trans hret.unchanged, hret.mem, ?_, ?_⟩
  · rw [hret.running.1, runAlone_halted ht, hs.1, htrap]
    rfl
  · rw [hret.pc, fourthPc, hlast]
    split
    · rfl
    · exact s.pcAfter_add_four 3

/-- A load, `JAL`, `TRAP` and the words that do nothing take effect in the Writeback of cycle 5, or raise their fault in
cycle 4. -/
theorem Executed.effectNext_five {s u : State} {p : Path} {w : Word} {behind : Nat} (h : Executed s p w u)
    (hw : pathOfWord w = p) (hp : ∀ op dst a b, p ≠ .unit op dst a b) (hs : Running s) (hslot : p ≠ .slot31)
    (hlast : lastEffectCycle s.cfg p = 5) (hstore : ∀ base disp n data, p ≠ .store base disp n data)
    (hbehind : redirects p s = false → 4 ≤ behind) : EffectNext p s behind (runWhileNext 1 u) := by
  refine ⟨?_, fun t ht hn htarget => ?_, fun f hf => ?_, fun r hr => absurd (runAlone_eq_refused hr).1 hslot⟩
  · rcases runWhileNext_succ 0 u with ⟨v, hstep, hrun⟩ | ⟨-, hrun⟩
    · rw [hrun]
      exact h.beforeEffect_step hstore hstep
    · rw [hrun]
      exact h.beforeEffect
  · obtain ⟨v, hstep, hret⟩ := h.cycleFour hw hp hs ht
      (fetchWord_fourthPc hn (fun hred => le_trans (by decide) (hbehind hred)) htarget)
    rw [runWhileNext_of_run (core_run_snoc (core_run_zero u) hstep)]
    obtain ⟨x, hstep', hfiles, hmem, hhalted, hpc, -⟩ :=
      hret.lastCycle (fetchWord_fourthPc_add_four hn hbehind htarget)
    refine ⟨x, hstep', hfiles, hmem, hhalted, ?_⟩
    rw [hpc, fourthPc, hlast]
    split
    · bv_omega
    · rw [s.pcAfter_add_four, s.pcAfter_add_four]
  · have hstep := h.fault hf
    rw [runWhileNext_of_stuck fun t ht => by rw [hstep] at ht; cases ht]
    exact hstep

/-- The state one cycle before an instruction's last effect, for every path. -/
theorem effectNext_runWhileNext {s : State} {w : Word} {p : Path} (h : AtRest s) (hcfg : s.cfg.wf = true)
    (hw : fetchWord s.cfg.memSize s.mem s.pc = some w) (hp : pathOfWord w = p)
    (hn : nopsFrom s.cfg.memSize s.mem (s.pc + 4) (if redirects p s then 2 else lastEffectCycle s.cfg p - 1)) :
    EffectNext p s (if redirects p s then 2 else lastEffectCycle s.cfg p - 1)
      (runWhileNext (lastEffectCycle s.cfg p - 1) s) := by
  rcases nonUnit_or_unit p with ⟨op, dst, a, b, rfl⟩ | hnon
  · exact effectNext_of_unit h hcfg hw hp rfl hn
  by_cases hslot : p = .slot31
  · subst hslot
    have hrun := run_two_of_atRest h hw (fetchWord_of_nopsFrom (n := 2) hn (by decide) (by decide))
    exact runWhileNext_of_run hrun ▸ effectNext_of_slot31 h hp _
  · rcases lastEffectCycle_of_nonUnit s.cfg hnon hslot with ⟨hlast, hdst, htrap⟩ | ⟨hlast, hstore⟩
    · obtain ⟨u, hrun, hex⟩ := executed_of_nops h hcfg hw (hp ▸ hslot) hn (by rw [hlast]; split <;> decide)
      rw [hp] at hex
      rw [hlast, runWhileNext_of_run hrun]
      exact hex.effectNext_four hp hnon h.running hslot hlast hdst htrap fun hred => by rw [hred]; decide
    · obtain ⟨u, hrun, hex⟩ := executed_of_nops h hcfg hw (hp ▸ hslot) hn (by rw [hlast]; split <;> decide)
      rw [hp] at hex
      rw [hlast, runWhileNext_add 3 1, runWhileNext_of_run hrun]
      exact hex.effectNext_five hp hnon h.running hslot hlast hstore fun hred => by rw [hred]; decide

theorem effectNext_withFetchWord {s : State} {w : Nat} {i : Instr} (hcfg : s.cfg.wf = true)
    (hwf : Memory.wf s.mem = true)
    (hpc : s.pc.toNat + 4 ≤ s.cfg.memSize) (hdec : decodeWord (BitVec.ofNat 32 w) = some i)
    (hn : nopsFrom s.cfg.memSize (s.withWordAtPc 32 w).mem (s.pc + 4)
      (if redirects (pathOf i) (s.withWordAtPc 32 w) then 2 else lastEffectCycle s.cfg (pathOf i) - 1)) :
    EffectNext (pathOf i) (s.withWordAtPc 32 w)
      (if redirects (pathOf i) (s.withWordAtPc 32 w) then 2 else lastEffectCycle s.cfg (pathOf i) - 1)
      (s.withFetchWord 32 w) := by
  have hp := pathOfWord_of_decodeWord hdec
  have hfetch := fetchWord_withWordAtPc w hwf hpc
  have hrest := AtRest.withWordAtPc s 32 w
  have hstate : s.withFetchWord 32 w =
      runWhileNext (lastEffectCycle s.cfg (pathOf i) - 1) (s.withWordAtPc 32 w) := by
    have hword : BitVec.ofNat 32 (w % 2 ^ 32) = BitVec.ofNat 32 w := BitVec.eq_of_toNat_eq (by simp)
    rw [State.withFetchWord, hword, hp]
  rw [hstate, ← State.withWordAtPc_cfg s 32 w]
  rw [← State.withWordAtPc_cfg s 32 w] at hcfg hfetch hn
  rw [← State.withWordAtPc_pc s 32 w] at hfetch hn
  generalize s.withWordAtPc 32 w = loaded at *
  exact effectNext_runWhileNext hrest hcfg hfetch hp hn

end Sys2Proof.Machine

open Sys2Proof Sys2Proof.Machine

/-- Settles O59: the run up to the machine that retires the instruction, and its last cycle. -/
theorem drainedRunIsExec : Obligations.DrainedRunIsExec := by
  intro s t w i hrest hw hdec hexec hn hn' htarget
  have hcfg := cfg_wf_of_atRest hrest
  have h := AtRest.of_atRest hrest
  have hp := pathOfWord_of_decodeWord hdec
  rw [exec_eq_runAlone] at hexec
  generalize pathOf i = p at *
  have last {c : Nat} {u : State} {pc : Word} (hrun : Sys2Proof.core.run c s = .next u) (hret : Retiring s t u pc)
      (hf : fetchWord s.cfg.memSize t.mem pc = some 0) (hc : cyclesAlone s.cfg p = c + 1)
      (hpc : pc + 4 = if redirects p s then t.pc + 8 else s.pcAfter (c + 1)) :
      ∃ v, Sys2Proof.core.run (cyclesAlone s.cfg p) s = .next v ∧ v.regs = t.regs ∧ v.fregs = t.fregs ∧ v.fps = t.fps ∧
        v.mem = t.mem ∧ v.halted = t.halted ∧
        v.pc = (if redirects p s then t.pc + 8 else s.pc + BitVec.ofNat 32 (4 * cyclesAlone s.cfg p)) ∧
        (∀ sl, v.marker sl = false) ∧ ∀ k, v.pool k = s.pool k := by
    obtain ⟨v, hstep, hfiles, hmem, hhalted, hvpc, hmarker, hpool⟩ := hret.lastCycle hf
    rw [hc]
    exact ⟨v, core_run_snoc hrun hstep, hfiles.regs, hfiles.fregs, hfiles.fps, hmem, hhalted, hvpc.trans hpc, hmarker,
      fun k => (hpool k).trans (h.pool k).symm⟩
  rcases nonUnit_or_unit p with ⟨op, dst, a, b, rfl⟩ | hnon
  · have hlat := latency_pos hcfg op.unitClass
    obtain ⟨u, hrun, hret⟩ := run_to_retiring_of_unit h hcfg hw hp hexec hn
    exact last hrun hret (fetchWord_of_nopsFrom hn' (by omega) (le_refl _)) rfl (s.pcAfter_add_four _)
  · have hwords : redirects p s = false → wordsAfter p s = 4 := fun hred => by
      rw [wordsAfter, hred, cyclesAlone_of_nonUnit hnon]
      rfl
    have htwo : 2 ≤ wordsAfter p s := by
      rw [wordsAfter, cyclesAlone_of_nonUnit hnon]
      split <;> decide
    obtain ⟨u, hrun, hex⟩ := executed_of_nops h hcfg hw (hp ▸ ne_slot31_of_runAlone hexec) hn htwo
    rw [hp] at hex
    obtain ⟨v, hstep, hret⟩ := hex.cycleFour hp hnon h.running hexec
      (fetchWord_fourthPc hn' (fun hred => by rw [hwords hred]; decide) htarget)
    refine last (core_run_snoc hrun hstep) hret
      (fetchWord_fourthPc_add_four hn' (fun hred => by rw [hwords hred]) htarget) (cyclesAlone_of_nonUnit hnon) ?_
    rw [fourthPc]
    split
    · bv_omega
    · rw [s.pcAfter_add_four, s.pcAfter_add_four]

/-- Settles O41: a load at `PC` puts the word there, and the machine clocked up to its last effect is the one before it
on every path. -/
theorem fetchWordIsFetched : Obligations.FetchWordIsFetched := by
  constructor
  case left =>
    intro s w hwf hpc
    exact ⟨_, step_of_atRest (.withWordAtPc s 32 w) (fetchWord_withWordAtPc w hwf hpc), rfl, rfl⟩
  case right =>
    intro s w i hcfg hwf hpc hdec loaded n behind hn
    obtain ⟨⟨hfiles, hmem, hhalted⟩, hnext, hfault, hrefused⟩ := effectNext_withFetchWord hcfg hwf hpc hdec hn
    simp only [exec_eq_runAlone]
    refine ⟨hfiles.regs, hfiles.fregs, hfiles.fps, hmem, hhalted, fun t ht hn' htarget => ?_, hfault, hrefused⟩
    obtain ⟨u, hstep, hfilesu, hmemu, hhaltedu, hpcu⟩ := hnext t ht hn' htarget
    exact ⟨u, hstep, hfilesu.regs, hfilesu.fregs, hfilesu.fps, hmemu, hhaltedu, hpcu⟩

end

section
/-! Settles the statements about the IEEE functions: rounding, NaNs, and the results that no rounding makes (41_fp.md
section 1). -/

namespace Sys2Proof.Machine

/-! ## Kinds of patterns -/

variable {f : FloatFormat} {x y : Nat}

theorem fpIsNaN_of_finite (h : fpFinite f x) : fpIsNaN f x = false := by simp [fpIsNaN, h.2]

theorem fpIsInf_of_finite (h : fpFinite f x) : fpIsInf f x = false := by simp [fpIsInf, h.2]

theorem fpIsNaN_of_inf (h : fpIsInf f x = true) : fpIsNaN f x = false := by
  rw [fpIsInf_iff] at h
  rw [Bool.eq_false_iff, Ne, fpIsNaN_iff]
  omega

theorem infMag_pos (hE : 1 ≤ f.expBits) : 0 < f.infMag := by
  have hpow := Nat.pow_le_pow_right (n := 2) (by decide) hE
  exact Nat.mul_pos (by rw [FloatFormat.expMax]; omega) (Nat.pow_pos (by decide))

theorem fpIsZero_of_inf (hE : 1 ≤ f.expBits) (h : fpIsInf f x = true) : fpIsZero f x = false := by
  have hpos := infMag_pos hE
  rw [fpIsInf_iff] at h
  rw [Bool.eq_false_iff, Ne, fpIsZero_iff]
  omega

theorem fpIsInf_of_zero (hE : 1 ≤ f.expBits) (h : fpIsZero f x = true) : fpIsInf f x = false := by
  rw [Bool.eq_false_iff]
  intro hinf
  rw [fpIsZero_of_inf hE hinf] at h
  cases h

theorem fpIsNaN_of_zero (h : fpIsZero f x = true) : fpIsNaN f x = false := by
  rw [fpIsZero_iff] at h
  rw [Bool.eq_false_iff, Ne, fpIsNaN_iff]
  omega

theorem signBit_pos (f : FloatFormat) : 0 < f.signBit := Nat.pow_pos (by decide)

theorem two_mul_signBit (f : FloatFormat) : 2 * f.signBit = 2 ^ (1 + f.expBits + f.fracBits) := by
  rw [FloatFormat.signBit, ← Nat.pow_succ']
  congr 1
  omega

theorem fpPack_lt (b : Bool) {m : Nat} (h : m < f.signBit) : fpPack f b m < 2 * f.signBit := by
  rw [fpPack]
  split <;> omega

/-! ## Values and signs -/

theorem fpValue_eq_zero_iff : fpValue f x = 0 ↔ fpIsZero f x = true := by
  rw [← fpUnits_eq_zero_iff, fpValue]
  split <;> omega

theorem natAbs_fpValue (f : FloatFormat) (x : Nat) : (fpValue f x).natAbs = fpUnits f x := by
  rw [fpValue]
  split <;> omega

theorem fpSign_of_neg (h : fpValue f x < 0) : fpSign f x = true := by
  rw [fpValue] at h
  split at h
  · assumption
  · omega

theorem fpSign_of_pos (h : 0 < fpValue f x) : fpSign f x = false := by
  rw [fpValue] at h
  split at h
  · omega
  · next hs => exact Bool.eq_false_of_not_eq_true hs

theorem fpValue_neg_of_sign (h : fpSign f x = true) (hz : fpIsZero f x ≠ true) : fpValue f x < 0 := by
  have hnonzero := mt fpValue_eq_zero_iff.1 hz
  have hle : ¬ 0 < fpValue f x := fun hpos => by rw [fpSign_of_pos hpos] at h; cases h
  omega

/-! ## The flipped sign (R191) -/

theorem mod_signBit_fpNeg (f : FloatFormat) (x : Nat) : fpNeg f x % f.signBit = x % f.signBit :=
  fpPack_mod f _ (Nat.mod_lt _ (signBit_pos f))

theorem fpSign_fpNeg (f : FloatFormat) (x : Nat) : fpSign f (fpNeg f x) = !fpSign f x :=
  fpSign_fpPack f _ (Nat.mod_lt _ (signBit_pos f))

theorem fpIsNaN_fpNeg (f : FloatFormat) (x : Nat) : fpIsNaN f (fpNeg f x) = fpIsNaN f x := by
  rw [Bool.eq_iff_iff, fpIsNaN_iff, fpIsNaN_iff, mod_signBit_fpNeg]

theorem fpIsInf_fpNeg (f : FloatFormat) (x : Nat) : fpIsInf f (fpNeg f x) = fpIsInf f x := by
  rw [Bool.eq_iff_iff, fpIsInf_iff, fpIsInf_iff, mod_signBit_fpNeg]

theorem fpValue_fpNeg (f : FloatFormat) (x : Nat) : fpValue f (fpNeg f x) = -fpValue f x := by
  rw [fpValue, fpValue, fpSign_fpNeg, fpUnits_eq, fpUnits_eq, mod_signBit_fpNeg]
  cases fpSign f x <;> simp

theorem fpFinite_fpNeg (h : fpFinite f x) : fpFinite f (fpNeg f x) := by
  refine ⟨?_, ?_⟩
  · rw [← two_mul_signBit]
    exact fpPack_lt _ (Nat.mod_lt _ (signBit_pos f))
  · rw [fpExp_eq, mod_signBit_fpNeg, ← fpExp_eq]
    exact h.2

/-! ## Finite operands: the exact result rounded, under its sign (R182, R184) -/

theorem fpRound_zero (f : FloatFormat) (d : Nat) : fpRound f 0 d = 0 := by simp [fpRound]

/-- The sign of a sum: that of the exact one, and of an exact zero minus only if both operands are negative. -/
def sumSign (f : FloatFormat) (x y : Nat) : Bool :=
  if fpValue f x + fpValue f y = 0 then fpSign f x && fpSign f y else decide (fpValue f x + fpValue f y < 0)

theorem fpAdd_of_finite (hx : fpFinite f x) (hy : fpFinite f y) :
    fpAdd f x y = some (fpPack f (sumSign f x y) (fpRound f (fpValue f x + fpValue f y).natAbs 1)) := by
  rw [fpAdd, fpIsNaN_of_finite hx, fpIsNaN_of_finite hy, fpIsInf_of_finite hx, fpIsInf_of_finite hy, sumSign]
  by_cases hz : fpValue f x + fpValue f y = 0
  · simp [hz, fpRound_zero]
  · simp [hz]

theorem fpMul_of_finite (hx : fpFinite f x) (hy : fpFinite f y) :
    fpMul f x y = some (fpPack f (fpSign f x ^^ fpSign f y) (fpRound f (fpUnits f x * fpUnits f y) (2 ^ f.unitLog))) := by
  simp [fpMul, fpIsNaN_of_finite hx, fpIsNaN_of_finite hy, fpIsInf_of_finite hx, fpIsInf_of_finite hy]

theorem fpDiv_of_finite (hx : fpFinite f x) (hy : fpFinite f y) (hz : fpIsZero f y = false) :
    fpDiv f x y = some (fpPack f (fpSign f x ^^ fpSign f y) (fpRound f (fpUnits f x * 2 ^ f.unitLog) (fpUnits f y))) := by
  simp [fpDiv, fpIsNaN_of_finite hx, fpIsNaN_of_finite hy, fpIsInf_of_finite hx, fpIsInf_of_finite hy, hz]

theorem correctlyRounded_add (hF : 1 ≤ f.fracBits) (x y : Nat) :
    CorrectlyRounded f (fpPack f (sumSign f x y) (fpRound f (fpValue f x + fpValue f y).natAbs 1))
      (fpValue f x + fpValue f y) 1 := by
  refine correctlyRounded_fpPack f hF _ _ 1 (by decide) (fun hneg => ?_) (fun hpos => ?_)
  · rw [sumSign, if_neg (by omega)]
    exact decide_eq_true hneg
  · rw [sumSign, if_neg (by omega)]
    exact decide_eq_false (by omega)

/-- The sign of a product is the exclusive-or of the signs. -/
theorem fpSign_xor_of_mul_neg (h : fpValue f x * fpValue f y < 0) : (fpSign f x ^^ fpSign f y) = true := by
  rcases mul_neg_iff.1 h with ⟨hx, hy⟩ | ⟨hx, hy⟩
  · rw [fpSign_of_pos hx, fpSign_of_neg hy]
    rfl
  · rw [fpSign_of_neg hx, fpSign_of_pos hy]
    rfl

theorem fpSign_xor_of_mul_pos (h : 0 < fpValue f x * fpValue f y) : (fpSign f x ^^ fpSign f y) = false := by
  rcases mul_pos_iff.1 h with ⟨hx, hy⟩ | ⟨hx, hy⟩
  · rw [fpSign_of_pos hx, fpSign_of_pos hy]
    rfl
  · rw [fpSign_of_neg hx, fpSign_of_neg hy]
    rfl

theorem correctlyRounded_mul (hF : 1 ≤ f.fracBits) (x y : Nat) :
    CorrectlyRounded f (fpPack f (fpSign f x ^^ fpSign f y) (fpRound f (fpUnits f x * fpUnits f y) (2 ^ f.unitLog)))
      (fpValue f x * fpValue f y) (2 ^ f.unitLog) := by
  rw [← natAbs_fpValue f x, ← natAbs_fpValue f y, ← Int.natAbs_mul]
  exact correctlyRounded_fpPack f hF _ _ _ (Nat.pow_pos (by decide)) fpSign_xor_of_mul_neg fpSign_xor_of_mul_pos

theorem correctlyRounded_div (hF : 1 ≤ f.fracBits) (x : Nat) (hz : fpIsZero f y = false) :
    CorrectlyRounded f
      (fpPack f (fpSign f x ^^ fpSign f y) (fpRound f (fpUnits f x * 2 ^ f.unitLog) (fpUnits f y)))
      (fpValue f x * 2 ^ f.unitLog * (fpValue f y).sign) (fpValue f y).natAbs := by
  have hy : fpValue f y ≠ 0 := fun h => by rw [fpValue_eq_zero_iff.1 h] at hz; cases hz
  have hnum : (fpValue f x * 2 ^ f.unitLog * (fpValue f y).sign).natAbs = fpUnits f x * 2 ^ f.unitLog := by
    rw [Int.natAbs_mul, Int.natAbs_mul, Int.natAbs_sign_of_ne_zero hy, natAbs_fpValue, Int.natAbs_pow]
    simp
  rw [← hnum, ← natAbs_fpValue f y]
  have hden : 0 < ((fpValue f y).natAbs : Int) := Int.natCast_pos.2 (Int.natAbs_pos.2 hy)
  have hpow : (0 : Int) < 2 ^ f.unitLog := by positivity
  have hprod : fpValue f x * 2 ^ f.unitLog * (fpValue f y).sign * (fpValue f y).natAbs =
      fpValue f x * fpValue f y * 2 ^ f.unitLog := by
    rw [mul_assoc, Int.sign_mul_natAbs, mul_right_comm]
  refine correctlyRounded_fpPack f hF _ _ _ (Int.natAbs_pos.2 hy) (fun hneg => ?_) (fun hpos => ?_)
  · have hscaled := mul_neg_of_neg_of_pos hneg hden
    rw [hprod] at hscaled
    exact fpSign_xor_of_mul_neg (neg_of_mul_neg_left hscaled hpow.le)
  · have hscaled := mul_pos hpos hden
    rw [hprod] at hscaled
    exact fpSign_xor_of_mul_pos ((mul_pos_iff_of_pos_right hpow).1 hscaled)

theorem correctlyRounded_of_add (hF : 1 ≤ f.fracBits) {p : Nat} (hx : fpFinite f x) (hy : fpFinite f y)
    (h : fpArith f .add x y = some p) : CorrectlyRounded f p (fpValue f x + fpValue f y) 1 := by
  rw [fpArith, fpAdd_of_finite hx hy] at h
  cases h
  exact correctlyRounded_add hF x y

theorem correctlyRounded_of_sub (hF : 1 ≤ f.fracBits) {p : Nat} (hx : fpFinite f x) (hy : fpFinite f y)
    (h : fpArith f .sub x y = some p) : CorrectlyRounded f p (fpValue f x - fpValue f y) 1 := by
  rw [fpArith, fpSub, fpAdd_of_finite hx (fpFinite_fpNeg hy)] at h
  cases h
  rw [sub_eq_add_neg, ← fpValue_fpNeg]
  exact correctlyRounded_add hF x (fpNeg f y)

theorem correctlyRounded_of_mul (hF : 1 ≤ f.fracBits) {p : Nat} (hx : fpFinite f x) (hy : fpFinite f y)
    (h : fpArith f .mul x y = some p) : CorrectlyRounded f p (fpValue f x * fpValue f y) (2 ^ f.unitLog) := by
  rw [fpArith, fpMul_of_finite hx hy] at h
  cases h
  exact correctlyRounded_mul hF x y

theorem correctlyRounded_of_div (hF : 1 ≤ f.fracBits) {p : Nat} (hx : fpFinite f x) (hy : fpFinite f y)
    (hz : fpIsZero f y = false) (h : fpArith f .div x y = some p) :
    CorrectlyRounded f p (fpValue f x * 2 ^ f.unitLog * (fpValue f y).sign) (fpValue f y).natAbs := by
  rw [fpArith, fpDiv_of_finite hx hy hz] at h
  cases h
  exact correctlyRounded_div hF x hz

/-- Finite operands have a result, but for a quotient by zero. -/
theorem fpArith_isSome_of_finite (hx : fpFinite f x) (hy : fpFinite f y) :
    (fpArith f .add x y).isSome = true ∧ (fpArith f .sub x y).isSome = true ∧ (fpArith f .mul x y).isSome = true ∧
    (fpIsZero f y = false → (fpArith f .div x y).isSome = true) := by
  refine ⟨?_, ?_, ?_, fun hz => ?_⟩
  · rw [fpArith, fpAdd_of_finite hx hy]
    rfl
  · rw [fpArith, fpSub, fpAdd_of_finite hx (fpFinite_fpNeg hy)]
    rfl
  · rw [fpArith, fpMul_of_finite hx hy]
    rfl
  · rw [fpArith, fpDiv_of_finite hx hy hz]
    rfl

/-! ## Which operations have no result, and the form of the others (R183, R184) -/

theorem fpAdd_eq_none_iff (f : FloatFormat) (x y : Nat) :
    fpAdd f x y = none ↔ (fpIsNaN f x || fpIsNaN f y || fpInvalid f .add x y) = true := by
  simp only [fpAdd, fpInvalid]
  split_ifs with hnan hx hxy hy hz <;> simp_all

theorem fpMul_eq_none_iff (f : FloatFormat) (x y : Nat) (hE : 1 ≤ f.expBits) :
    fpMul f x y = none ↔ (fpIsNaN f x || fpIsNaN f y || fpInvalid f .mul x y) = true := by
  have hx := fpIsZero_of_inf (x := x) hE
  have hy := fpIsZero_of_inf (x := y) hE
  simp only [fpMul, fpInvalid]
  split_ifs with hnan hinf hzero
  · simp_all
  · grind
  · grind
  · simp_all

theorem fpDiv_eq_none_iff (f : FloatFormat) (x y : Nat) (hE : 1 ≤ f.expBits) :
    fpDiv f x y = none ↔ (fpIsNaN f x || fpIsNaN f y || fpInvalid f .div x y) = true := by
  have hx := fpIsZero_of_inf (x := x) hE
  have hy := fpIsZero_of_inf (x := y) hE
  simp only [fpDiv, fpInvalid]
  split_ifs with hnan hinfx hinfy hinfy hzeroy hzerox <;> simp_all

/-- An operation has no result exactly for a NaN operand or an invalid operation. -/
theorem fpArith_eq_none_iff (f : FloatFormat) (hE : 1 ≤ f.expBits) (o : FpArith) (x y : Nat) :
    fpArith f o x y = none ↔ (fpIsNaN f x || fpIsNaN f y || fpInvalid f o x y) = true := by
  cases o with
  | add => exact fpAdd_eq_none_iff f x y
  | sub =>
    have hsign : (fpSign f x != !fpSign f y) = (fpSign f x == fpSign f y) := by
      cases fpSign f x <;> cases fpSign f y <;> rfl
    rw [fpArith, fpSub, fpAdd_eq_none_iff, fpIsNaN_fpNeg, fpInvalid, fpIsInf_fpNeg, fpSign_fpNeg, hsign]
    rfl
  | mul => exact fpMul_eq_none_iff f x y hE
  | div => exact fpDiv_eq_none_iff f x y hE

theorem fpRound_le_infMag (f : FloatFormat) (n d : Nat) : fpRound f n d ≤ f.infMag := by
  rw [fpRound_eq_min]
  exact Nat.min_le_right _ _

/-- A sign and a sign-less pattern up to infinity. -/
def IsSigned (f : FloatFormat) (p : Nat) : Prop := ∃ b m, p = fpPack f b m ∧ m ≤ f.infMag

theorem isSigned_fpAdd {p : Nat} (h : fpAdd f x y = some p) : IsSigned f p := by
  simp only [fpAdd] at h
  split_ifs at h <;> cases h
  · exact ⟨_, _, rfl, le_refl _⟩
  · exact ⟨_, _, rfl, le_refl _⟩
  · exact ⟨_, _, rfl, Nat.zero_le _⟩
  · exact ⟨_, _, rfl, fpRound_le_infMag _ _ _⟩

/-- Every result is a sign and a sign-less pattern up to infinity. -/
theorem isSigned_fpArith {o : FpArith} {p : Nat} (h : fpArith f o x y = some p) : IsSigned f p := by
  cases o with
  | add => exact isSigned_fpAdd h
  | sub => exact isSigned_fpAdd h
  | mul =>
    simp only [fpArith, fpMul] at h
    split_ifs at h <;> cases h
    · exact ⟨_, _, rfl, le_refl _⟩
    · exact ⟨_, _, rfl, fpRound_le_infMag _ _ _⟩
  | div =>
    simp only [fpArith, fpDiv] at h
    split_ifs at h <;> cases h
    · exact ⟨_, _, rfl, le_refl _⟩
    · exact ⟨_, _, rfl, Nat.zero_le _⟩
    · exact ⟨_, _, rfl, le_refl _⟩
    · exact ⟨_, _, rfl, fpRound_le_infMag _ _ _⟩

theorem IsSigned.lt {p : Nat} (h : IsSigned f p) : p < 2 * f.signBit := by
  obtain ⟨b, m, rfl, hm⟩ := h
  exact fpPack_lt b (lt_of_le_of_lt hm (infMag_lt_signBit f))

theorem IsSigned.not_nan {p : Nat} (h : IsSigned f p) : fpIsNaN f p = false := by
  obtain ⟨b, m, rfl, hm⟩ := h
  rw [Bool.eq_false_iff, Ne, fpIsNaN_iff, fpPack_mod f b (lt_of_le_of_lt hm (infMag_lt_signBit f))]
  omega

/-! ## The functions on words -/

/-- Four functions on words of `w` bits are those of the format: a result as its pattern, and where there is none a
NaN. -/
structure Computes {w : Nat} (f : FloatFormat) (op : FpArith → BitVec w → BitVec w → BitVec w) : Prop where
  fracBits : 1 ≤ f.fracBits
  expBits : 1 ≤ f.expBits
  width : 2 ^ w = 2 * f.signBit
  result : ∀ o a b p, fpArith f o a.toNat b.toNat = some p → op o a b = BitVec.ofNat w p
  nan : ∀ o a b, fpArith f o a.toNat b.toNat = none →
    ∃ sign m, op o a b = BitVec.ofNat w (fpPack f sign m) ∧ f.infMag < m ∧ m < f.signBit

theorem computes_fp32 : Computes binary32 fp32 where
  fracBits := by decide
  expBits := by decide
  width := by decide
  result o a b p h := by rw [fp32, h]
  nan o a b h := by
    refine ⟨_, binary32.infMag + ((Config.nanDraw32 o a b).2.val + 1), by rw [fp32, h, fpNaN], by omega, ?_⟩
    have hlt := (Config.nanDraw32 o a b).2.isLt
    simp only [FloatFormat.infMag, FloatFormat.signBit, FloatFormat.expMax, binary32]
    omega

theorem computes_fp64 : Computes binary64 fp64 where
  fracBits := by decide
  expBits := by decide
  width := by decide
  result o a b p h := by rw [fp64, h]
  nan o a b h := by
    refine ⟨_, binary64.infMag + ((Config.nanDraw64 o a b).2.val + 1), by rw [fp64, h, fpNaN], by omega, ?_⟩
    have hlt := (Config.nanDraw64 o a b).2.isLt
    simp only [FloatFormat.infMag, FloatFormat.signBit, FloatFormat.expMax, binary64]
    omega

section Words

variable {w : Nat} {op : FpArith → BitVec w → BitVec w → BitVec w}

theorem Computes.lt (h : Computes f op) (a : BitVec w) : a.toNat < 2 * f.signBit := by
  rw [← h.width]
  exact a.isLt

theorem Computes.toNat_ofNat (h : Computes f op) {p : Nat} (hp : p < 2 * f.signBit) : (BitVec.ofNat w p).toNat = p := by
  rw [BitVec.toNat_ofNat, Nat.mod_eq_of_lt (by rw [h.width]; exact hp)]

/-- The sign bit of a word is that of its pattern. -/
theorem Computes.msb_eq (h : Computes f op) (a : BitVec w) : a.msb = fpSign f a.toNat := by
  have hlt := h.lt a
  have hpos := signBit_pos f
  have hw : 2 ^ (w - 1) = f.signBit := by
    have hwidth := h.width
    cases w with
    | zero => omega
    | succ n =>
      rw [Nat.pow_succ'] at hwidth
      exact Nat.eq_of_mul_eq_mul_left (by decide) hwidth
  rw [BitVec.msb_eq_decide, fpSign, hw]
  refine decide_eq_decide.2 ⟨fun hle => ?_, fun hodd => ?_⟩
  · rw [Nat.div_eq_of_lt_le (k := 1) (by omega) (by omega)]
  · by_contra hless
    rw [Nat.div_eq_of_lt (by omega)] at hodd
    cases hodd

/-- A word is the pattern of its sign and its lower bits. -/
theorem Computes.ofNat_fpPack (h : Computes f op) (a : BitVec w) :
    BitVec.ofNat w (fpPack f a.msb (a.toNat % f.signBit)) = a := by
  rw [h.msb_eq, fpPack_fpSign f (h.lt a), BitVec.ofNat_toNat, BitVec.setWidth_eq]

theorem Computes.toNat_of_some (h : Computes f op) {o : FpArith} {a b : BitVec w} {p : Nat}
    (hp : fpArith f o a.toNat b.toNat = some p) : (op o a b).toNat = p := by
  rw [h.result o a b p hp, h.toNat_ofNat (isSigned_fpArith hp).lt]

/-- The sign of a result. -/
theorem Computes.msb_of_some (h : Computes f op) {o : FpArith} {a b : BitVec w} {sign : Bool} {m : Nat}
    (hp : fpArith f o a.toNat b.toNat = some (fpPack f sign m)) (hm : m < f.signBit) : (op o a b).msb = sign := by
  rw [h.msb_eq, h.toNat_of_some hp, fpSign_fpPack f sign hm]

/-- The result is a NaN exactly where the operation has none. -/
theorem Computes.isNaN (h : Computes f op) (o : FpArith) (a b : BitVec w) :
    fpIsNaN f (op o a b).toNat = (fpIsNaN f a.toNat || fpIsNaN f b.toNat || fpInvalid f o a.toNat b.toNat) := by
  rw [Bool.eq_iff_iff, ← fpArith_eq_none_iff f h.expBits]
  cases hp : fpArith f o a.toNat b.toNat with
  | some p =>
    rw [h.toNat_of_some hp, (isSigned_fpArith hp).not_nan]
    simp
  | none =>
    obtain ⟨sign, m, hop, hinf, hlt⟩ := h.nan o a b hp
    rw [hop, h.toNat_ofNat (fpPack_lt sign hlt), fpIsNaN_iff, fpPack_mod f sign hlt]
    simpa using hinf

/-- Results of finite words are correctly rounded. -/
theorem Computes.correctlyRounded (h : Computes f op) {a b : BitVec w} (ha : fpFinite f a.toNat)
    (hb : fpFinite f b.toNat) :
    CorrectlyRounded f (op .add a b).toNat (fpValue f a.toNat + fpValue f b.toNat) 1 ∧
    CorrectlyRounded f (op .sub a b).toNat (fpValue f a.toNat - fpValue f b.toNat) 1 ∧
    CorrectlyRounded f (op .mul a b).toNat (fpValue f a.toNat * fpValue f b.toNat) (2 ^ f.unitLog) ∧
    (fpIsZero f b.toNat = false → CorrectlyRounded f (op .div a b).toNat
      (fpValue f a.toNat * 2 ^ f.unitLog * (fpValue f b.toNat).sign) (fpValue f b.toNat).natAbs) := by
  have hsome {o : FpArith} (hs : (fpArith f o a.toNat b.toNat).isSome = true) :
      fpArith f o a.toNat b.toNat = some (op o a b).toNat := by
    obtain ⟨p, hp⟩ := Option.isSome_iff_exists.1 hs
    rw [hp, h.toNat_of_some hp]
  obtain ⟨hadd, hsub, hmul, hdiv⟩ := fpArith_isSome_of_finite ha hb
  exact ⟨correctlyRounded_of_add h.fracBits ha hb (hsome hadd), correctlyRounded_of_sub h.fracBits ha hb (hsome hsub),
    correctlyRounded_of_mul h.fracBits ha hb (hsome hmul),
    fun hz => correctlyRounded_of_div h.fracBits ha hb hz (hsome (hdiv hz))⟩

/-! ## Results that no rounding makes (R184) -/

/-- The infinity of a sign. -/
def fpInf (f : FloatFormat) (w : Nat) (sign : Bool) : BitVec w := BitVec.ofNat w (fpPack f sign f.infMag)

/-- The zero of a sign. -/
def fpZero (f : FloatFormat) (w : Nat) (sign : Bool) : BitVec w := BitVec.ofNat w (fpPack f sign 0)

/-- An infinite word is the infinity of its sign. -/
theorem Computes.fpInf_msb (h : Computes f op) {a : BitVec w} (ha : fpIsInf f a.toNat = true) : fpInf f w a.msb = a := by
  rw [fpIsInf_iff] at ha
  rw [fpInf, ← ha, h.ofNat_fpPack]

section Operands

variable {a b : BitVec w}

theorem Computes.div_zero (h : Computes f op) (ha : fpFinite f a.toNat) (hz : ¬ fpIsZero f a.toNat = true)
    (hb : fpIsZero f b.toNat = true) : op .div a b = fpInf f w (a.msb ^^ b.msb) := by
  rw [h.msb_eq, h.msb_eq]
  refine h.result .div a b _ ?_
  simp [fpArith, fpDiv, fpIsNaN_of_finite ha, fpIsInf_of_finite ha, hz, hb, fpIsNaN_of_zero hb,
    fpIsInf_of_zero h.expBits hb]

theorem Computes.div_inf (h : Computes f op) (ha : fpFinite f a.toNat) (hb : fpIsInf f b.toNat = true) :
    op .div a b = fpZero f w (a.msb ^^ b.msb) := by
  rw [h.msb_eq, h.msb_eq]
  refine h.result .div a b _ ?_
  simp [fpArith, fpDiv, fpIsNaN_of_finite ha, fpIsInf_of_finite ha, hb, fpIsNaN_of_inf hb]

theorem Computes.inf_div (h : Computes f op) (ha : fpIsInf f a.toNat = true) (hb : fpFinite f b.toNat) :
    op .div a b = fpInf f w (a.msb ^^ b.msb) := by
  rw [h.msb_eq, h.msb_eq]
  refine h.result .div a b _ ?_
  simp [fpArith, fpDiv, ha, fpIsNaN_of_inf ha, fpIsNaN_of_finite hb, fpIsInf_of_finite hb]

theorem Computes.inf_mul (h : Computes f op) (ha : fpIsInf f a.toNat = true) (hb : fpIsNaN f b.toNat = false)
    (hz : fpIsZero f b.toNat = false) :
    op .mul a b = fpInf f w (a.msb ^^ b.msb) ∧ op .mul b a = fpInf f w (a.msb ^^ b.msb) := by
  have hnz := fpIsZero_of_inf h.expBits ha
  rw [h.msb_eq, h.msb_eq]
  refine ⟨h.result .mul a b _ ?_, h.result .mul b a _ ?_⟩
  · simp [fpArith, fpMul, ha, fpIsNaN_of_inf ha, hb, hz, hnz]
  · simp [fpArith, fpMul, ha, fpIsNaN_of_inf ha, hb, hz, hnz, Bool.xor_comm]

/-- An infinity plus a value that is no opposite infinity. -/
theorem Computes.inf_add (h : Computes f op) (ha : fpIsInf f a.toNat = true) (hb : fpIsNaN f b.toNat = false)
    (hs : fpIsInf f b.toNat = true → a.msb = b.msb) : op .add a b = a := by
  refine (h.result .add a b (fpPack f a.msb f.infMag) ?_).trans (h.fpInf_msb ha)
  rw [h.msb_eq, h.msb_eq] at *
  cases hinf : fpIsInf f b.toNat with
  | true => simp [fpArith, fpAdd, ha, fpIsNaN_of_inf ha, hb, hs hinf]
  | false => simp [fpArith, fpAdd, ha, fpIsNaN_of_inf ha, hb, hinf]

/-- An infinity minus a value that is no equal infinity. -/
theorem Computes.inf_sub (h : Computes f op) (ha : fpIsInf f a.toNat = true) (hb : fpIsNaN f b.toNat = false)
    (hs : fpIsInf f b.toNat = true → a.msb ≠ b.msb) : op .sub a b = a := by
  refine (h.result .sub a b (fpPack f a.msb f.infMag) ?_).trans (h.fpInf_msb ha)
  rw [h.msb_eq, h.msb_eq] at *
  cases hinf : fpIsInf f b.toNat with
  | true =>
    simp [fpArith, fpSub, fpAdd, ha, fpIsNaN_of_inf ha, hb, fpIsNaN_fpNeg, fpSign_fpNeg, Bool.eq_not_of_ne (hs hinf)]
  | false => simp [fpArith, fpSub, fpAdd, ha, fpIsNaN_of_inf ha, hb, fpIsNaN_fpNeg, fpIsInf_fpNeg, hinf]

/-- A finite value plus or minus an infinity. -/
theorem Computes.finite_add_inf (h : Computes f op) (ha : fpIsInf f a.toNat = true) (hb : fpFinite f b.toNat) :
    op .add b a = a ∧ op .sub b a = fpInf f w (!a.msb) := by
  constructor
  · refine (h.result .add b a (fpPack f a.msb f.infMag) ?_).trans (h.fpInf_msb ha)
    rw [h.msb_eq]
    simp [fpArith, fpAdd, ha, fpIsNaN_of_inf ha, fpIsNaN_of_finite hb, fpIsInf_of_finite hb]
  · rw [h.msb_eq]
    refine h.result .sub b a _ ?_
    simp [fpArith, fpSub, fpAdd, ha, fpIsNaN_of_inf ha, fpIsNaN_of_finite hb, fpIsInf_of_finite hb, fpIsNaN_fpNeg,
      fpIsInf_fpNeg, fpSign_fpNeg]

theorem Computes.zero_mul (h : Computes f op) (ha : fpFinite f a.toNat) (hz : fpIsZero f a.toNat = true)
    (hb : fpFinite f b.toNat) :
    op .mul a b = fpZero f w (a.msb ^^ b.msb) ∧ op .mul b a = fpZero f w (a.msb ^^ b.msb) := by
  have hunits := (fpUnits_eq_zero_iff f a.toNat).2 hz
  rw [h.msb_eq, h.msb_eq]
  refine ⟨h.result .mul a b _ ?_, h.result .mul b a _ ?_⟩
  · rw [fpArith, fpMul_of_finite ha hb, hunits, Nat.zero_mul, fpRound_zero]
  · rw [fpArith, fpMul_of_finite hb ha, hunits, Nat.mul_zero, fpRound_zero, Bool.xor_comm]

theorem Computes.zero_div (h : Computes f op) (ha : fpFinite f a.toNat) (hz : fpIsZero f a.toNat = true)
    (hb : fpFinite f b.toNat) (hnz : fpIsZero f b.toNat = false) : op .div a b = fpZero f w (a.msb ^^ b.msb) := by
  rw [h.msb_eq, h.msb_eq]
  refine h.result .div a b _ ?_
  rw [fpArith, fpDiv_of_finite ha hb hnz, (fpUnits_eq_zero_iff f a.toNat).2 hz, Nat.zero_mul, fpRound_zero]

theorem fpRound_lt_signBit (f : FloatFormat) (n d : Nat) : fpRound f n d < f.signBit :=
  lt_of_le_of_lt (fpRound_le_infMag f n d) (infMag_lt_signBit f)

theorem Computes.msb_mul (h : Computes f op) (ha : fpFinite f a.toNat) (hb : fpFinite f b.toNat) :
    (op .mul a b).msb = (a.msb ^^ b.msb) := by
  rw [h.msb_eq a, h.msb_eq b]
  exact h.msb_of_some (fpMul_of_finite ha hb) (fpRound_lt_signBit ..)

theorem Computes.msb_div (h : Computes f op) (ha : fpFinite f a.toNat) (hb : fpFinite f b.toNat)
    (hz : fpIsZero f b.toNat = false) : (op .div a b).msb = (a.msb ^^ b.msb) := by
  rw [h.msb_eq a, h.msb_eq b]
  exact h.msb_of_some (fpDiv_of_finite ha hb hz) (fpRound_lt_signBit ..)

/-- An exact zero sum is minus zero exactly if both operands are negative. -/
theorem Computes.add_of_zero_sum (h : Computes f op) (ha : fpFinite f a.toNat) (hb : fpFinite f b.toNat)
    (hz : fpValue f a.toNat + fpValue f b.toNat = 0) : op .add a b = fpZero f w (a.msb && b.msb) := by
  rw [h.msb_eq, h.msb_eq]
  refine h.result .add a b _ ?_
  rw [fpArith, fpAdd_of_finite ha hb, sumSign, if_pos hz, hz, Int.natAbs_zero, fpRound_zero]

/-- An exact zero difference is minus zero exactly if the first operand is negative and the second is not. -/
theorem Computes.sub_of_zero_difference (h : Computes f op) (ha : fpFinite f a.toNat) (hb : fpFinite f b.toNat)
    (hz : fpValue f a.toNat = fpValue f b.toNat) : op .sub a b = fpZero f w (a.msb && !b.msb) := by
  have hsum : fpValue f a.toNat + fpValue f (fpNeg f b.toNat) = 0 := by rw [fpValue_fpNeg, hz, add_neg_cancel]
  rw [h.msb_eq, h.msb_eq]
  refine h.result .sub a b _ ?_
  rw [fpArith, fpSub, fpAdd_of_finite ha (fpFinite_fpNeg hb), sumSign, if_pos hsum, hsum, Int.natAbs_zero, fpRound_zero,
    fpSign_fpNeg]

end Operands

theorem Computes.fpFinite_of_zero (h : Computes f op) {a : BitVec w} (hz : fpIsZero f a.toNat = true) :
    fpFinite f a.toNat := by
  have hpow := Nat.pow_le_pow_right (n := 2) (by decide) h.expBits
  have hexp : fpExp f a.toNat = 0 := by
    simp only [fpIsZero, Bool.and_eq_true, decide_eq_true_eq] at hz
    exact hz.1
  refine ⟨?_, ?_⟩
  · rw [← two_mul_signBit]
    exact h.lt a
  · rw [hexp, FloatFormat.expMax]
    omega

theorem Computes.specialResults (h : Computes f op) : SpecialResults f op (fpInf f w) (fpZero f w) := by
  intro a b finite isInf isZero value
  refine ⟨h.div_zero, h.div_inf, h.inf_div, fun ha hb => ?_, fun ha hb => ?_, fun ha hb hs => ?_, fun ha hb hs => ?_,
    fun hz hb => h.zero_mul (h.fpFinite_of_zero hz) hz hb,
    fun hz hb hnz => h.zero_div (h.fpFinite_of_zero hz) hz hb (Bool.eq_false_of_not_eq_true hnz), h.msb_mul,
    fun ha hb hnz => h.msb_div ha hb (Bool.eq_false_of_not_eq_true hnz), fun ha hb => ?_, fun ha hb hnz hsum => ?_,
    fun ha hb hnz hdiff => ?_⟩
  · rcases hb with ⟨hb, hnz⟩ | hb
    · exact h.inf_mul ha (fpIsNaN_of_finite hb) (Bool.eq_false_of_not_eq_true hnz)
    · exact h.inf_mul ha (fpIsNaN_of_inf hb) (fpIsZero_of_inf h.expBits hb)
  · have hnan := fpIsNaN_of_finite hb
    have hninf {q : Prop} (hb' : fpIsInf f b.toNat = true) : q := by
      rw [fpIsInf_of_finite hb] at hb'
      cases hb'
    obtain ⟨hadd, hsub⟩ := h.finite_add_inf ha hb
    exact ⟨h.inf_add ha hnan hninf, hadd, h.inf_sub ha hnan hninf, hsub⟩
  · exact h.inf_add ha (fpIsNaN_of_inf hb) fun _ => hs
  · exact h.inf_sub ha (fpIsNaN_of_inf hb) fun _ => hs
  · have hva := fpValue_eq_zero_iff.2 ha
    have hvb := fpValue_eq_zero_iff.2 hb
    exact ⟨h.add_of_zero_sum (h.fpFinite_of_zero ha) (h.fpFinite_of_zero hb) (by rw [hva, hvb, add_zero]),
      h.sub_of_zero_difference (h.fpFinite_of_zero ha) (h.fpFinite_of_zero hb) (hva.trans hvb.symm)⟩
  · have hsum' : fpValue f a.toNat + fpValue f b.toNat = 0 := hsum
    have hsign : (a.msb && b.msb) = false := by
      rw [h.msb_eq, h.msb_eq]
      cases hs : fpSign f a.toNat with
      | false => rfl
      | true =>
        have hneg := fpValue_neg_of_sign hs hnz
        exact fpSign_of_pos (by omega)
    rw [h.add_of_zero_sum ha hb hsum, hsign]
  · have hdiff' : fpValue f a.toNat = fpValue f b.toNat := hdiff
    have hsign : (a.msb && !b.msb) = false := by
      rw [h.msb_eq, h.msb_eq]
      cases hs : fpSign f a.toNat with
      | false => rfl
      | true =>
        have hneg := fpValue_neg_of_sign hs hnz
        rw [fpSign_of_neg (by omega)]
        rfl
    rw [h.sub_of_zero_difference ha hb hdiff, hsign]

end Words

theorem fpInf_binary32 : fpInf binary32 32 = fun negative => if negative then 0xFF800000 else 0x7F800000 := by
  funext negative
  cases negative <;> rfl

theorem fpZero_binary32 : fpZero binary32 32 = fun negative => if negative then 0x80000000 else 0 := by
  funext negative
  cases negative <;> rfl

theorem fpInf_binary64 :
    fpInf binary64 64 = fun negative => if negative then 0xFFF0000000000000 else 0x7FF0000000000000 := by
  funext negative
  cases negative <;> rfl

theorem fpZero_binary64 : fpZero binary64 64 = fun negative => if negative then 0x8000000000000000 else 0 := by
  funext negative
  cases negative <;> rfl

end Sys2Proof.Machine

open Sys2Proof Sys2Proof.Machine

/-- Settles O21: for each operation the exact result is rounded once, under its sign. -/
theorem fpResultsNearestEven : Obligations.FpResultsNearestEven := by
  refine ⟨fun f hf x y p hx hy => ?_, fun a b ha hb => computes_fp32.correctlyRounded ha hb,
    fun a b ha hb => computes_fp64.correctlyRounded ha hb⟩
  have hF : 1 ≤ f.fracBits := by
    rcases List.mem_pair.1 hf with rfl | rfl
    · exact computes_fp32.fracBits
    · exact computes_fp64.fracBits
  exact ⟨correctlyRounded_of_add hF hx hy, correctlyRounded_of_sub hF hx hy, correctlyRounded_of_mul hF hx hy,
    fun h hz => correctlyRounded_of_div hF hx hy hz h, fpArith_isSome_of_finite hx hy⟩

/-- Settles O22: what an operation computes is no NaN, and what is drawn where it computes nothing is one. -/
theorem nanResultsExactly : Obligations.NanResultsExactly := ⟨computes_fp32.isNaN, computes_fp64.isNaN⟩

/-- Settles O23, for any format and then for the two. -/
theorem divisionByZeroAndInfinities : Obligations.DivisionByZeroAndInfinities := by
  constructor
  · rw [← fpInf_binary32, ← fpZero_binary32]
    exact computes_fp32.specialResults
  · rw [← fpInf_binary64, ← fpZero_binary64]
    exact computes_fp64.specialResults

end
